-- ==== Sys2Proof/Word.lean ====
section
/-!
DEFINITION. The data widths of KBDRB (R9, R42, R64): every datum at an interface is one byte, a command word has 16 bits.
-/

namespace Sys2Proof

/-- `u8` of R9: a scancode, a table entry, a character, a port value. -/
abbrev Byte := BitVec 8

/-- The 16-bit command word of R64. -/
abbrev CommandWord := BitVec 16

end Sys2Proof
end

