-- ==== Sys2Proof/Config.lean ====
section
/-!
DEFINITION. What an integration fixes for a whole run (R7, R27), as one plain record, and the free values.
The spec leaves these parameters OPEN, so the record is a field of State and a statement holds for every value of it.
CAP = 512 and CTR_W = 32 are the values R7 gives.
-/

namespace Sys2Proof

/-- The two byte sources (R111), which are also the two interrupt lines (R133). -/
inductive Source where
  | kbd
  | ser
  deriving DecidableEq, Repr, Inhabited

/-- DRAIN_EXCLUSION (R7, R134). -/
inductive Exclusion where
  | masked
  | unprotected
  deriving DecidableEq, Repr

/-- A configuration table: 256 entries of 8 bits (R27), as the sixteen rows of sixteen of the spec's grids (R66). -/
abbrev Table := Vector (Vector Byte 16) 16

/-- The special key-codes KEY_HOME to KEY_DEL (R7, R65). -/
structure KeyCodes where
  home : Byte
  endKey : Byte
  up : Byte
  down : Byte
  left : Byte
  right : Byte
  pageUp : Byte
  pageDown : Byte
  insert : Byte
  del : Byte
  deriving DecidableEq, Repr

/-- The parameters of R7. A port is a number: the size of the host's port space is the host's (R40). -/
structure Config where
  /-- MAP0, unshifted (R27). -/
  map0 : Table
  /-- MAP1, shifted. -/
  map1 : Table
  /-- MAP2, ctrl. -/
  map2 : Table
  /-- MAP3, ctrl-duplicate; a table of its own here (DESIGN CHOICE, safe, log 6). -/
  map3 : Table
  /-- MODMAP: the momentary-modifier bits of an index. -/
  modmap : Table
  /-- TOGMAP: the toggle bits of an index. -/
  togmap : Table
  /-- The special key-codes; the decoder compares only KEY_DEL (R88). -/
  keys : KeyCodes
  /-- RESET_PORT. -/
  resetPort : Nat
  /-- RESET_VALUE. -/
  resetValue : Byte
  /-- KBD_STATUS_PORT; a port read leaves no trace of its number (R47, log 23). -/
  kbdStatusPort : Nat
  /-- KBD_DATA_PORT; as above. -/
  kbdDataPort : Nat
  /-- KBD_DIB_MASK: the "data-in-buffer" bit of the status byte. -/
  kbdDibMask : Byte
  /-- DRAIN_EXCLUSION. -/
  exclusion : Exclusion
  /-- IRQ_KBD_EN. -/
  irqKbdEn : Bool
  /-- IRQ_SER_EN. -/
  irqSerEn : Bool
  deriving DecidableEq, Repr

/-- CAP, the ring buffer's capacity (R7). -/
abbrev ringCap : Nat := 512

/-- FREE VALUE (log 7): the n-th byte a device supplies past the listed draws (R47, R113). -/
opaque Config.freeByte : Nat → Byte

/-- FREE VALUE (log 7): the n-th two-way choice past the listed draws (serial ready bit R113, POLL_ORDER R118,
platform response R136). -/
opaque Config.freeBit : Nat → Bool

/-- FREE VALUE (log 9): which interrupt, if any, arrives at the n-th step boundary past the listed schedule (R133). -/
opaque Config.freeIrq : Nat → Option Source

/-- FREE VALUE (log 8): what a ring slot that no push has written since reset holds (R25, U1). -/
opaque Config.freeSlot : Nat → Byte

end Sys2Proof
end

