-- ==== Sys2Proof/Syntax.lean ====
section
/-!
DEFINITION. The operations of KBDRB, one constructor for each row of spec/opcode_table.json, and the encoded inputs.
-/

namespace Sys2Proof

/-- One constructor per row of the opcode table: five scancode classes (R56) and twelve command words (R64).
`k` is the key number `b[6:0]` of R55. -/
inductive Instr where
  | scEscape
  | scRelease (k : BitVec 7)
  | scReleaseExt (k : BitVec 7)
  | scPress (k : BitVec 7)
  | scPressExt (k : BitVec 7)
  | reset
  | decode (b : Byte)
  | kbdSource
  | serialSource
  | rbPush (v : Byte)
  | rbPop
  | drainKbd
  | drainSer
  | kbdIntr
  | serialIntr
  | pollChar
  | getChar
  deriving DecidableEq, Repr

/-- What the environment hands the block, in the table's two formats: `command` (R64) and `scancode` (R55). -/
inductive Encoded where
  | command (w : CommandWord)
  | scancode (b : Byte)
  deriving DecidableEq, Repr

end Sys2Proof
end

