-- ==== Sys2Proof/WellFormed.lean ====
section
/-!
DEFINITION. Which terms of Instr stand for an input: a release of key 0x60 would be the byte 0xE0, which is the
prefix and no release (R55, R56).
-/

namespace Sys2Proof

/-- The key number a release cannot have: `0xE0 = 1 ++ 0x60` is ESC_PREFIX. -/
abbrev prefixKey : BitVec 7 := 0x60

def Instr.wf : Instr → Bool
  | .scEscape => true
  | .scRelease k => k != prefixKey
  | .scReleaseExt k => k != prefixKey
  | .scPress _ => true
  | .scPressExt _ => true
  | .reset => true
  | .decode _ => true
  | .kbdSource => true
  | .serialSource => true
  | .rbPush _ => true
  | .rbPop => true
  | .drainKbd => true
  | .drainSer => true
  | .kbdIntr => true
  | .serialIntr => true
  | .pollChar => true
  | .getChar => true

end Sys2Proof
end

