-- ==== Sys2Proof/Decode.lean ====
section
/-!
DEFINITION. Decoding the two input formats (R55 to R58, R64), the encoder, and the table's word numbering.
Both decoders are total; a command word that KBDRB gives no meaning is refused by name.
-/

namespace Sys2Proof

/-- Why a command word is refused (R64, R131). -/
inductive DecodeError where
  /-- REFUSE_BAD_OPSEL: opsel 0xB to 0xF. -/
  | badOpsel
  /-- REFUSE_BAD_OPERAND: rsv nonzero, an operand where none is taken, or DRAIN with s other than 0 and 1. -/
  | badOperand
  deriving DecidableEq, Repr

/-- ESC_PREFIX (R7, R55). -/
def escPrefix : Byte := 0xE0

/-- `b[7]`: set on a key release (R55). -/
def isRelease (b : Byte) : Bool := b.getLsbD 7

/-- `b[6:0]`: the key number K (R55). -/
def keyOf (b : Byte) : BitVec 7 := b.extractLsb' 0 7

/-- The byte classes in the source's order (R56); `esc` is `ms.ESC`. -/
def decodeScancode (esc : Bool) (b : Byte) : Instr :=
  if b = escPrefix then .scEscape
  else if isRelease b then
    if esc then .scReleaseExt (keyOf b) else .scRelease (keyOf b)
  else
    if esc then .scPressExt (keyOf b) else .scPress (keyOf b)

/-- `opsel[15:12]` (R64). -/
def opselOf (w : CommandWord) : BitVec 4 := w.extractLsb' 12 4

/-- `rsv[11:8]` (R64). -/
def rsvOf (w : CommandWord) : BitVec 4 := w.extractLsb' 8 4

/-- `operand[7:0]` (R64). -/
def operandOf (w : CommandWord) : Byte := w.extractLsb' 0 8

/-- An operation that takes no operand: rsv and operand must be 0 (R64). -/
def decodePlain (w : CommandWord) (i : Instr) : Except DecodeError Instr :=
  if rsvOf w = 0 ∧ operandOf w = 0 then .ok i else .error .badOperand

/-- An operation with a byte operand: rsv must be 0 (R64). -/
def decodeOperand (w : CommandWord) (f : Byte → Instr) : Except DecodeError Instr :=
  if rsvOf w = 0 then .ok (f (operandOf w)) else .error .badOperand

/-- DRAIN: rsv must be 0 and s must be 0 (keyboard) or 1 (serial) (R64). -/
def decodeDrain (w : CommandWord) : Except DecodeError Instr :=
  if rsvOf w = 0 ∧ operandOf w = 0 then .ok .drainKbd
  else if rsvOf w = 0 ∧ operandOf w = 1 then .ok .drainSer
  else .error .badOperand

/-- The command word (R64). The opsel is judged before rsv and operand (vectors E3, E4, E9; DEDUCED, log 30). -/
def decodeCommand (w : CommandWord) : Except DecodeError Instr :=
  match (opselOf w).toNat with
  | 0x0 => decodePlain w .reset
  | 0x1 => decodeOperand w .decode
  | 0x2 => decodePlain w .kbdSource
  | 0x3 => decodePlain w .serialSource
  | 0x4 => decodeOperand w .rbPush
  | 0x5 => decodePlain w .rbPop
  | 0x6 => decodeDrain w
  | 0x7 => decodePlain w .kbdIntr
  | 0x8 => decodePlain w .serialIntr
  | 0x9 => decodePlain w .pollChar
  | 0xA => decodePlain w .getChar
  | _ => .error .badOpsel

/-- Either format. `esc` is `ms.ESC`, which only a scancode's class looks at (R56). -/
def decodeInput (esc : Bool) : Encoded → Except DecodeError Instr
  | .command w => decodeCommand w
  | .scancode b => .ok (decodeScancode esc b)

/-- `opsel ++ rsv ++ operand` with rsv = 0 (R64). -/
def commandOf (opsel : BitVec 4) (operand : Byte) : Encoded := .command (opsel ++ (0#4 ++ operand))

/-- `R ++ K` (R55). -/
def scancodeOf (release : BitVec 1) (k : BitVec 7) : Encoded := .scancode (release ++ k)

/-- The encoded form of an operation, from the tables of R56 and R64. -/
def encode : Instr → Encoded
  | .scEscape => .scancode escPrefix
  | .scRelease k => scancodeOf 1#1 k
  | .scReleaseExt k => scancodeOf 1#1 k
  | .scPress k => scancodeOf 0#1 k
  | .scPressExt k => scancodeOf 0#1 k
  | .reset => commandOf 0x0 0
  | .decode b => commandOf 0x1 b
  | .kbdSource => commandOf 0x2 0
  | .serialSource => commandOf 0x3 0
  | .rbPush v => commandOf 0x4 v
  | .rbPop => commandOf 0x5 0
  | .drainKbd => commandOf 0x6 0
  | .drainSer => commandOf 0x6 1
  | .kbdIntr => commandOf 0x7 0
  | .serialIntr => commandOf 0x8 0
  | .pollChar => commandOf 0x9 0
  | .getChar => commandOf 0xA 0

/-- Whether the decoder reads `i` when `ms.ESC` is `esc` (R56: the condition column). -/
def Instr.readsUnder (i : Instr) (esc : Bool) : Bool :=
  match i with
  | .scRelease _ => !esc
  | .scPress _ => !esc
  | .scReleaseExt _ => esc
  | .scPressExt _ => esc
  | .scEscape => true
  | .reset => true
  | .decode _ => true
  | .kbdSource => true
  | .serialSource => true
  | .rbPush _ => true
  | .rbPop => true
  | .drainKbd => true
  | .drainSer => true
  | .kbdIntr => true
  | .serialIntr => true
  | .pollChar => true
  | .getChar => true

/-- The input that the opcode table numbers as `w` of `nbits` bits: 8 bits are a scancode, 16 a command word.
Each is one word, so no order among words arises (R42). -/
def inputOfBits (nbits w : Nat) : Encoded :=
  if nbits ≤ 8 then .scancode (BitVec.ofNat 8 w) else .command (BitVec.ofNat 16 w)

/-- The decoder on a table word. SC_RELEASE_EXT and SC_PRESS_EXT have the bits of SC_RELEASE and SC_PRESS: the word
alone is read with no prefix pending, as at reset (DEDUCED, log 11). -/
def decodeTableWord (nbits w : Nat) : Option Instr :=
  (decodeInput false (inputOfBits nbits w)).toOption

end Sys2Proof
end

