-- ==== Sys2Proof/Machine/Flags.lean ====
section
/-!
DEFINITION. The bits of the modifier register `ms` (R22) and every computation on them (R81 to R87).
-/

namespace Sys2Proof.Machine

/-- R22: SHIFT and CTRL are bits 0 and 1 of the source; the other positions are the spec's (D3). -/
def msShift : BitVec 7 := 0x01
def msCtrl : BitVec 7 := 0x02
def msAlt : BitVec 7 := 0x04
def msCaps : BitVec 7 := 0x08
def msNum : BitVec 7 := 0x10
def msScroll : BitVec 7 := 0x20
def msEsc : BitVec 7 := 0x40

/-- `ms.ESC` (R22). -/
def escPending (ms : BitVec 7) : Bool := ms &&& msEsc != 0

/-- Whether every bit of `mask` is set in `ms`. -/
def holds (ms mask : BitVec 7) : Bool := ms &&& mask == mask

/-- R81: the prefix sets ESC. -/
def setEsc (ms : BitVec 7) : BitVec 7 := ms ||| msEsc

/-- R85: an extended press clears ESC. -/
def clearEsc (ms : BitVec 7) : BitVec 7 := ms &&& ~~~msEsc

/-- R82, R83: a release clears the bits of its MODMAP entry, and ESC. -/
def releaseMs (modEntry : Byte) (ms : BitVec 7) : BitVec 7 :=
  ms &&& ~~~(modEntry.setWidth 7 ||| msEsc)

/-- R86: a press sets the bits of its MODMAP entry, then flips those of its TOGMAP entry. -/
def pressMs (modEntry togEntry : Byte) (ms : BitVec 7) : BitVec 7 :=
  (ms ||| modEntry.setWidth 7) ^^^ togEntry.setWidth 7

/-- R87 (R61): the ASCII case swap under CAPSLOCK. -/
def caseSwap (ms : BitVec 7) (c : Byte) : Byte :=
  if holds ms msCaps then
    if 0x61 ≤ c ∧ c ≤ 0x7A then c - 0x20
    else if 0x41 ≤ c ∧ c ≤ 0x5A then c + 0x20
    else c
  else c

end Sys2Proof.Machine
end

