-- ==== Sys2Proof/Machine/Tables.lean ====
section
/-!
DEFINITION. The reference configuration REF (R7, R65, R66, R67), PRESUMED (log 2): the spec marks it as general
knowledge. Only State.reset and the tests hold it; every statement over all states holds for every configuration.
Also the table read (R45), the well-formedness of a configuration (R8) and the entries the source fixes (R68, items 1 to 5).
-/

namespace Sys2Proof.Machine

/-- `T[i]` of R10 and R45: the configured byte, with no side effect. Entry `i` stands in row `i[7:4]`, column `i[3:0]`. -/
def tableRead (t : Table) (i : Byte) : Byte :=
  (t[(i.extractLsb' 4 4).toNat]'(i.extractLsb' 4 4).isLt)[(i.extractLsb' 0 4).toNat]'(i.extractLsb' 0 4).isLt

/-- A row of the grids of R66 that the spec omits: all 0x00. -/
def emptyRow : Vector Byte 16 := Vector.replicate 16 0

/-- A table from override pairs and the default 0 (R60). -/
def tableOfPairs (pairs : List (Nat × Byte)) : Table :=
  ⟨((List.range 16).map fun r =>
      (⟨((List.range 16).map fun c => (pairs.lookup (16 * r + c)).getD 0).toArray, by simp⟩ : Vector Byte 16)).toArray,
    by simp⟩

/-- REF MAP0, unshifted (R66). -/
def refMap0 : Table :=
  #v[#v[0, 0x1B, 0x31, 0x32, 0x33, 0x34, 0x35, 0x36, 0x37, 0x38, 0x39, 0x30, 0x2D, 0x3D, 0x08, 0x09],
    #v[0x71, 0x77, 0x65, 0x72, 0x74, 0x79, 0x75, 0x69, 0x6F, 0x70, 0x5B, 0x5D, 0x0A, 0, 0x61, 0x73],
    #v[0x64, 0x66, 0x67, 0x68, 0x6A, 0x6B, 0x6C, 0x3B, 0x27, 0x60, 0, 0x5C, 0x7A, 0x78, 0x63, 0x76],
    #v[0x62, 0x6E, 0x6D, 0x2C, 0x2E, 0x2F, 0, 0x2A, 0, 0x20, 0, 0, 0, 0, 0, 0],
    #v[0, 0, 0, 0, 0, 0, 0, 0x37, 0x38, 0x39, 0x2D, 0x34, 0x35, 0x36, 0x2B, 0x31],
    #v[0x32, 0x33, 0x30, 0x2E, 0, 0, 0, 0, 0, 0, 0, 0, 0, 0, 0, 0],
    emptyRow,
    emptyRow,
    emptyRow,
    #v[0, 0, 0, 0, 0, 0, 0, 0, 0, 0, 0, 0, 0x0A, 0, 0, 0],
    emptyRow,
    #v[0, 0, 0, 0, 0, 0x2F, 0, 0, 0, 0, 0, 0, 0, 0, 0, 0],
    #v[0, 0, 0, 0, 0, 0, 0, 0xE0, 0xE2, 0xE6, 0, 0xE4, 0, 0xE5, 0, 0xE1],
    #v[0xE3, 0xE7, 0xE8, 0xE9, 0, 0, 0, 0, 0, 0, 0, 0, 0, 0, 0, 0],
    emptyRow,
    emptyRow]

/-- REF MAP1, shifted (R66). -/
def refMap1 : Table :=
  #v[#v[0, 0x1B, 0x21, 0x40, 0x23, 0x24, 0x25, 0x5E, 0x26, 0x2A, 0x28, 0x29, 0x5F, 0x2B, 0x08, 0x09],
    #v[0x51, 0x57, 0x45, 0x52, 0x54, 0x59, 0x55, 0x49, 0x4F, 0x50, 0x7B, 0x7D, 0x0A, 0, 0x41, 0x53],
    #v[0x44, 0x46, 0x47, 0x48, 0x4A, 0x4B, 0x4C, 0x3A, 0x22, 0x7E, 0, 0x7C, 0x5A, 0x58, 0x43, 0x56],
    #v[0x42, 0x4E, 0x4D, 0x3C, 0x3E, 0x3F, 0, 0x2A, 0, 0x20, 0, 0, 0, 0, 0, 0],
    #v[0, 0, 0, 0, 0, 0, 0, 0x37, 0x38, 0x39, 0x2D, 0x34, 0x35, 0x36, 0x2B, 0x31],
    #v[0x32, 0x33, 0x30, 0x2E, 0, 0, 0, 0, 0, 0, 0, 0, 0, 0, 0, 0],
    emptyRow,
    emptyRow,
    emptyRow,
    #v[0, 0, 0, 0, 0, 0, 0, 0, 0, 0, 0, 0, 0x0A, 0, 0, 0],
    emptyRow,
    #v[0, 0, 0, 0, 0, 0x2F, 0, 0, 0, 0, 0, 0, 0, 0, 0, 0],
    #v[0, 0, 0, 0, 0, 0, 0, 0xE0, 0xE2, 0xE6, 0, 0xE4, 0, 0xE5, 0, 0xE1],
    #v[0xE3, 0xE7, 0xE8, 0xE9, 0, 0, 0, 0, 0, 0, 0, 0, 0, 0, 0, 0],
    emptyRow,
    emptyRow]

/-- REF MAP2, ctrl, with the three quirks R66 names (R66). -/
def refMap2 : Table :=
  #v[emptyRow,
    #v[0x11, 0x17, 0x05, 0x12, 0x14, 0x19, 0x15, 0x09, 0x0F, 0x10, 0, 0, 0x0D, 0, 0x01, 0x13],
    #v[0x04, 0x06, 0x07, 0x08, 0x0A, 0x0B, 0x0C, 0, 0, 0, 0, 0x1C, 0x1A, 0x18, 0x03, 0x16],
    #v[0x02, 0x0E, 0x0D, 0, 0, 0xEF, 0, 0, 0, 0, 0, 0, 0, 0, 0, 0],
    emptyRow,
    emptyRow,
    emptyRow,
    emptyRow,
    emptyRow,
    #v[0, 0, 0, 0, 0, 0, 0, 0xE0, 0, 0, 0, 0, 0, 0, 0, 0],
    emptyRow,
    #v[0, 0, 0, 0, 0, 0xEF, 0, 0, 0, 0, 0, 0, 0, 0, 0, 0],
    #v[0, 0, 0, 0, 0, 0, 0, 0, 0xE2, 0xE6, 0, 0xE4, 0, 0xE5, 0, 0xE1],
    #v[0xE3, 0xE7, 0xE8, 0xE9, 0, 0, 0, 0, 0, 0, 0, 0, 0, 0, 0, 0],
    emptyRow,
    emptyRow]

/-- REF MODMAP (R67). -/
def refModmap : Table :=
  tableOfPairs [(0x1D, 0x02), (0x2A, 0x01), (0x36, 0x01), (0x38, 0x04), (0x9D, 0x02), (0xB8, 0x04)]

/-- REF TOGMAP (R67). -/
def refTogmap : Table := tableOfPairs [(0x3A, 0x08), (0x45, 0x10), (0x46, 0x20)]

/-- REF key-codes (R65). -/
def refKeys : KeyCodes where
  home := 0xE0
  endKey := 0xE1
  up := 0xE2
  down := 0xE3
  left := 0xE4
  right := 0xE5
  pageUp := 0xE6
  pageDown := 0xE7
  insert := 0xE8
  del := 0xE9

/-- REF (R7): MAP3 = MAP2, DRAIN_EXCLUSION at its default. The two interrupt enables are OPEN and have no REF value:
both are on here (DESIGN CHOICE, unsafe for a statement about State.reset alone, log 3). -/
def refConfig : Config where
  map0 := refMap0
  map1 := refMap1
  map2 := refMap2
  map3 := refMap2
  modmap := refModmap
  togmap := refTogmap
  keys := refKeys
  resetPort := 0x92
  resetValue := 0x03
  kbdStatusPort := 0x64
  kbdDataPort := 0x60
  kbdDibMask := 0x01
  exclusion := .masked
  irqKbdEn := true
  irqSerEn := true

/-- R8 conditions (1) to (4); (5) and (6) hold of the constants CAP = 512 and CTR_W = 32. Condition (3) is read of
MODMAP and TOGMAP, where it follows from (1) and (2): the character 'a' = 0x61 of R68 has bit 6 set (DEDUCED, log 5). -/
def wfConfig (c : Config) : Bool :=
  c.modmap.toList.all (fun row => row.toList.all fun e => e &&& 0xF8 == 0)
    && c.togmap.toList.all (fun row => row.toList.all fun e => e &&& 0xC7 == 0)
    && c.keys.del != 0

/-- Whether some index has a property. -/
def someIndex (p : Byte → Bool) : Bool :=
  (List.range 16).any fun r => (List.range 16).any fun c => p (BitVec.ofNat 8 (16 * r + c))

/-- R27: MAP3 is a copy of MAP2, entry for entry. -/
def ctrlDuplicate (c : Config) : Bool :=
  !someIndex fun i => tableRead c.map3 i != tableRead c.map2 i

/-- R68: the entries the source itself fixes, items 1 to 5, and of item 6 that MODMAP sets CTRL for some index and ALT for
some index. The press that item 6 asks for is `deleteReachable` (Machine/Ops.lean). -/
def sourceEntries (c : Config) : Bool :=
  tableRead c.map0 0x1E == 0x61
    && tableRead c.map1 0x1E == 0x41
    && (tableRead c.modmap 0x2A).getLsbD 0
    && someIndex (fun i => (tableRead c.togmap i).getLsbD 3)
    && [c.keys.up, c.keys.down, c.keys.left, c.keys.right].all
        (fun code => someIndex fun i => i.getLsbD 7 && tableRead c.map0 i == code)
    && someIndex (fun i => (tableRead c.modmap i).getLsbD 1)
    && someIndex (fun i => (tableRead c.modmap i).getLsbD 2)

end Sys2Proof.Machine
end

