-- ==== Sys2Proof/Machine/State.lean ====
section
/-!
DEFINITION. The state of KBDRB (R20 to R34) as plain data, the state after reset, and the reasons a step can stop.
The environment's side (operations still to come, schedule, devices, draws) is plain data too, in `Env`.
-/

namespace Sys2Proof.Machine

/-- The contexts that can run a drain (R30). -/
inductive Ctx where
  | consumer
  | kbdIrq
  | serIrq
  deriving DecidableEq, Repr

/-- A drain in progress: `drain_owner` (R30), and the source it drains (R114), which the spec keeps implicit
(DESIGN CHOICE, safe, log 14). -/
structure Drain where
  owner : Ctx
  src : Source
  deriving DecidableEq, Repr

/-- POLL_ORDER of one poll (R7, R118). -/
inductive Order where
  | kbdFirst
  | serFirst
  deriving DecidableEq, Repr

/-- `cstate` (R31): `k` drains of the poll are done; the chosen order is kept for the operation in progress. -/
inductive CState where
  | idle
  | poll (k : Fin 3) (order : Order)
  | get (k : Fin 3) (order : Order)
  deriving DecidableEq, Repr

/-- `Outcome` of R11. -/
inductive DecodeOutcome where
  | noEvent
  | ignored
  | char (c : Byte)
  | sideEffect
  deriving DecidableEq, Repr

/-- What an operation returned (R10): an outcome (DECODE and the sources), RB_POP's and POLL_CHAR's option, GET_CHAR's byte. -/
inductive Result where
  | outcome (o : DecodeOutcome)
  | popped (r : Option Byte)
  | gotChar (c : Byte)
  deriving DecidableEq, Repr

/-- An event of `hist` (R29): `PortWrite(p, v)`. -/
structure PortWrite where
  port : Nat
  value : Byte
  deriving DecidableEq, Repr

/-- The ring storage as (slot, byte) pairs in strictly rising order of slots; a slot that is not listed has not been
written since reset and holds an unspecified value (R25, log 8). -/
abbrev Memory := List Host.Cell

/-- The keyboard device. `free` lists the values its next status and data reads return, and then supplies free values
(R47); `queue` is the reference queue device (R122). -/
inductive KbdDevice where
  | free (status data : List Byte)
  | queue (bytes : List Byte)
  deriving DecidableEq, Repr

/-- The serial device: the next ready bits and received bytes (R113), or the reference queue device (R122). -/
inductive SerDevice where
  | free (ready : List Bool) (data : List Byte)
  | queue (bytes : List Byte)
  deriving DecidableEq, Repr

/-- The platform's answer to the reset write (R136). -/
inductive Response where
  | continues
  | resetTaken
  deriving DecidableEq, Repr

/-- Who moves at a step boundary (R49, R133): the context that is running (`go`), an interrupt that arrives, serial init
(R151 step 4), bytes joining a queue device (R122), or an attempt to change the configuration (R53). -/
inductive Turn where
  | go
  | irq (x : Source)
  | serialInit (present : Bool)
  | kbdBytes (bs : List Byte)
  | serBytes (bs : List Byte)
  | configChange
  deriving DecidableEq, Repr

/-- The environment of the block, as the model carries it (DESIGN CHOICE, safe, log 7, 9, 10): the operations still to
be given (R21), the coming turns, the devices, the coming draws, and the counter of free values taken. -/
structure Env where
  prog : List Encoded
  turns : List Turn
  kbd : KbdDevice
  ser : SerDevice
  orders : List Order
  resps : List Response
  draws : Nat
  deriving DecidableEq, Repr

/-- The state elements of R20, and the model's own `serialDone` (log 21), `result` (log 13) and `env`. -/
structure State where
  /-- The modifier register (R22). -/
  ms : BitVec 7
  /-- The ring storage (R25). -/
  buf : Memory
  /-- The write cursor (R26). -/
  wr : BitVec 32
  /-- The read cursor (R26). -/
  rd : BitVec 32
  /-- The configuration tables and parameters (R7, R27). -/
  cfg : Config
  /-- `serial_exists` (R28). -/
  serialExists : Bool
  /-- The output history, oldest first (R29). -/
  hist : List PortWrite
  /-- `drain_owner` (R30), with the drain's source. -/
  drain : Option Drain
  /-- The consumer's position (R31). -/
  cstate : CState
  /-- Set by RESET (R33). -/
  init : Bool
  /-- Run mark (R32). -/
  faulted : Bool
  /-- Run mark (R32). -/
  refused : Bool
  /-- Run mark (R32). -/
  resetTaken : Bool
  /-- Serial init has latched `serial_exists` in this run (R28: "latched once"). -/
  serialDone : Bool
  /-- The value the last returning operation returned. -/
  result : Option Result
  /-- The environment. -/
  env : Env
  deriving DecidableEq, Repr

/-- `drain_owner` as R30 has it: `none` or the context. -/
def State.drainOwner (s : State) : Option Ctx := s.drain.map Drain.owner

/-- The faults of R130, and the stuck states of R32, R130 and R131 (U17, U18). -/
inductive Fault where
  /-- F_UNINIT (code 1), raised by every operation but RESET while init = 0; records the operation. Safe. -/
  | uninit (op : Instr)
  /-- F_CONCURRENT_DRAIN (code 2), raised by a drain's entry step under `unprotected` while a drain runs; records the
  two contexts. Safe. -/
  | concurrentDrain (running entering : Ctx)
  /-- Stuck: the state is marked `faulted`, so no agent has a step (R130). Safe. -/
  | stuckFaulted
  /-- Stuck: the state is marked `refused`, which admits no further step (R131). Safe. -/
  | stuckRefused
  /-- Stuck: the platform took the reset, and the run is over (R32, R158). Safe. -/
  | stuckReset
  deriving DecidableEq, Repr

/-- The refusals of R131, and the host's own for an operation without a meaning. -/
inductive Refusal where
  /-- Raised by an arm of `exec` without a meaning; none is left. Safe. -/
  | notModelled (mnemonic : String)
  /-- REFUSE_BAD_OPSEL (code 1), raised by the decoding of a command word. Safe. -/
  | badOpsel
  /-- REFUSE_BAD_OPERAND (code 2), raised by the decoding of a command word. Safe. -/
  | badOperand
  /-- REFUSE_BAD_CONFIG (code 3), raised by any step under a configuration that breaks R8, and by a configuration
  change during a run (R53). Safe. -/
  | badConfig
  /-- REFUSE_REINIT (code 4), raised by RESET while init = 1. Safe. -/
  | reinit
  deriving DecidableEq, Repr

/-- Free devices with nothing listed, no operation, no listed turn or draw. -/
def Env.empty : Env where
  prog := []
  turns := []
  kbd := .free [] []
  ser := .free [] []
  orders := []
  resps := []
  draws := 0

/-- The state RESET leaves (R34). The configuration is REF (PRESUMED, unsafe, log 2, 3); the model's own fields are
empty (DESIGN CHOICE, log 25). -/
def State.reset : State where
  ms := 0
  buf := []
  wr := 0
  rd := 0
  cfg := refConfig
  serialExists := false
  hist := []
  drain := none
  cstate := .idle
  init := true
  faulted := false
  refused := false
  resetTaken := false
  serialDone := false
  result := none
  env := Env.empty

/-- The launch of a run: init = 0 and every run mark 0 (R158), before the platform's RESET (log 1). -/
def State.launch : State := { State.reset with init := false }

end Sys2Proof.Machine
end

