-- ==== Sys2Proof/Machine/Operands.lean ====
section
/-!
DEFINITION. Operand assembly: the table index of each byte class (R58), the table number (R59), the slot of a cursor
(R26), the order of a poll's two drains (R118) and the names of the interrupt contexts (R116, R117).
-/

namespace Sys2Proof.Machine

/-- RELEASE and PRESS: the plain slot 0x00 + K (R58). -/
def plainIndex (k : BitVec 7) : Byte := 0#1 ++ k

/-- RELEASE_EXT and PRESS_EXT: the extended slot 0x80 + K (R58). -/
def extIndex (k : BitVec 7) : Byte := 1#1 ++ k

/-- The index a release of byte `b` uses (R80 step 2). -/
def releaseIndex (ms : BitVec 7) (b : Byte) : Byte := if escPending ms then b else b &&& 0x7F

/-- The index a press of byte `b` uses (R80 step 3). -/
def pressIndex (ms : BitVec 7) (b : Byte) : Byte := if escPending ms then b ||| 0x80 else b

/-- `t = ms[1:0]` (R59). -/
def tableNumber (ms : BitVec 7) : BitVec 2 := ms.extractLsb' 0 2

/-- MAP_t (R59). -/
def charTable (c : Config) (t : BitVec 2) : Table :=
  if t = 0 then c.map0 else if t = 1 then c.map1 else if t = 2 then c.map2 else c.map3

/-- `cursor mod CAP` (R26): always a slot, so the `require` of R44 holds. -/
def slotOf (cursor : BitVec 32) : Fin ringCap := Fin.ofNat ringCap cursor.toNat

/-- `d = (wr - rd) mod 2^CTR_W` (R26). -/
def pending (s : State) : BitVec 32 := s.wr - s.rd

/-- `unread = min(d, CAP)` (R26). -/
def unread (s : State) : Nat := min (pending s).toNat ringCap

/-- The source of the first drain of a poll. -/
def Order.first : Order → Source
  | .kbdFirst => .kbd
  | .serFirst => .ser

/-- The source of the second drain of a poll. -/
def Order.second : Order → Source
  | .kbdFirst => .ser
  | .serFirst => .kbd

/-- The context of an interrupt line (R116, R117). -/
def irqCtx : Source → Ctx
  | .kbd => .kbdIrq
  | .ser => .serIrq

/-- The entry point of an interrupt line (R116, R117). -/
def irqInstr : Source → Instr
  | .kbd => .kbdIntr
  | .ser => .serialIntr

/-- The source operation of a drain (R114). -/
def sourceInstr : Source → Instr
  | .kbd => .kbdSource
  | .ser => .serialSource

/-- The drain operation of a source (R114). -/
def drainInstr : Source → Instr
  | .kbd => .drainKbd
  | .ser => .drainSer

/-- The bit that enables an interrupt line (R133 (b)). -/
def irqEnabled (c : Config) : Source → Bool
  | .kbd => c.irqKbdEn
  | .ser => c.irqSerEn

end Sys2Proof.Machine
end

