-- ==== Sys2Proof/Machine/Ops.lean ====
section
/-!
DEFINITION. The named operations over the state: one named update per field, the ring storage (R44), the draws (R10),
the port accesses (R47), the decoder's steps (R80 to R89), the ring buffer (R100, R101), the sources (R90, R113), the
drain (R114) with its exclusion (R134), the poll (R118, R120), and the checks that come before an operation (R132).
-/

namespace Sys2Proof.Machine

/-! Named updates: each writes the one field it names. -/

def State.setMs (s : State) (v : BitVec 7) : State := { s with ms := v }
def State.setBuf (s : State) (m : Memory) : State := { s with buf := m }
def State.setWr (s : State) (v : BitVec 32) : State := { s with wr := v }
def State.setRd (s : State) (v : BitVec 32) : State := { s with rd := v }
def State.setDrain (s : State) (d : Option Drain) : State := { s with drain := d }
def State.setCState (s : State) (c : CState) : State := { s with cstate := c }
def State.setResult (s : State) (r : Option Result) : State := { s with result := r }
def State.setEnv (s : State) (e : Env) : State := { s with env := e }

/-- Appends an event to the output history (R29). -/
def State.record (s : State) (w : PortWrite) : State := { s with hist := s.hist ++ [w] }

/-- The platform has taken the reset (R136). -/
def State.markReset (s : State) : State := { s with resetTaken := true }

/-- Serial init latches `serial_exists` (R28, R151 step 4). -/
def State.latchSerial (s : State) (present : Bool) : State :=
  { s with serialExists := present, serialDone := true }

/-! The ring storage (R25, R44). -/

/-- The byte a slot was last written with, if any. -/
def Memory.lookup : Memory → Nat → Option Byte
  | [], _ => none
  | (a, v) :: m, x => if x = a then some v else Memory.lookup m x

/-- Writes one slot, keeping the slots in strictly rising order. -/
def Memory.insert : Memory → Nat → Byte → Memory
  | [], x, w => [(x, w)]
  | (a, v) :: m, x, w =>
    if x < a then (x, w) :: (a, v) :: m
    else if x = a then (x, w) :: m
    else (a, v) :: Memory.insert m x w

/-- Strictly rising slots from `lo` on, all below CAP. -/
def Memory.wfFrom : Nat → Memory → Bool
  | _, [] => true
  | lo, (a, _) :: m => decide (lo ≤ a) && decide (a < ringCap) && Memory.wfFrom (a + 1) m

/-- The canonical form: strictly rising slots below CAP. An unlisted slot holds no listed byte, so no entry can equal
what an unlisted slot reads as. -/
def Memory.wf (m : Memory) : Bool := Memory.wfFrom 0 m

/-- `MemRead(a, 1)` (R44). A slot that nothing has written since reset reads as a free value (R25, log 8). -/
def memRead (s : State) (a : Fin ringCap) : Byte := (Memory.lookup s.buf a).getD (Config.freeSlot a)

/-- `MemWrite(a, 1, v)` (R44). -/
def memWrite (s : State) (a : Fin ringCap) (v : Byte) : State := s.setBuf (Memory.insert s.buf a v)

/-! Draws (R10): the listed one if there is one, else a free value (log 7). -/

/-- The platform's response to the reset write (R136). -/
def Env.takeResponse (e : Env) : Response × Env :=
  match e.resps with
  | r :: rs => (r, { e with resps := rs })
  | [] => (if Config.freeBit e.draws then .continues else .resetTaken, { e with draws := e.draws + 1 })

/-- The order of a poll's two drains (R118). -/
def Env.takeOrder (e : Env) : Order × Env :=
  match e.orders with
  | o :: os => (o, { e with orders := os })
  | [] => (if Config.freeBit e.draws then .kbdFirst else .serFirst, { e with draws := e.draws + 1 })

/-- Who moves at this step boundary (R49, R133). -/
def Env.takeTurn (e : Env) : Turn × Env :=
  match e.turns with
  | t :: ts => (t, { e with turns := ts })
  | [] =>
    (match Config.freeIrq e.draws with
      | some x => .irq x
      | none => .go,
     { e with draws := e.draws + 1 })

/-- `PortRead(KBD_STATUS_PORT)` (R47); the queue device shows KBD_DIB_MASK iff it holds a byte (R122). -/
def Env.readKbdStatus (e : Env) (mask : Byte) : Byte × Env :=
  match e.kbd with
  | .free (b :: st) data => (b, { e with kbd := .free st data })
  | .free [] _ => (Config.freeByte e.draws, { e with draws := e.draws + 1 })
  | .queue [] => (0x00, e)
  | .queue (_ :: _) => (mask, e)

/-- `PortRead(KBD_DATA_PORT)`, which consumes the byte (R47, R122). An empty queue supplies a free value: KBD_SOURCE
does not read it. -/
def Env.readKbdData (e : Env) : Byte × Env :=
  match e.kbd with
  | .free st (b :: data) => (b, { e with kbd := .free st data })
  | .free _ [] => (Config.freeByte e.draws, { e with draws := e.draws + 1 })
  | .queue (b :: bs) => (b, { e with kbd := .queue bs })
  | .queue [] => (Config.freeByte e.draws, { e with draws := e.draws + 1 })

/-- The serial data-ready bit (R113, R122). -/
def Env.readSerReady (e : Env) : Bool × Env :=
  match e.ser with
  | .free (r :: rs) data => (r, { e with ser := .free rs data })
  | .free [] _ => (Config.freeBit e.draws, { e with draws := e.draws + 1 })
  | .queue [] => (false, e)
  | .queue (_ :: _) => (true, e)

/-- The received serial byte, which the read consumes (R113, R122). -/
def Env.readSerData (e : Env) : Byte × Env :=
  match e.ser with
  | .free rs (b :: data) => (b, { e with ser := .free rs data })
  | .free _ [] => (Config.freeByte e.draws, { e with draws := e.draws + 1 })
  | .queue (b :: bs) => (b, { e with ser := .queue bs })
  | .queue [] => (Config.freeByte e.draws, { e with draws := e.draws + 1 })

/-- Bytes join the keyboard's queue (R122); a free device has no queue. -/
def Env.joinKbd (e : Env) (bs : List Byte) : Env :=
  match e.kbd with
  | .queue q => { e with kbd := .queue (q ++ bs) }
  | .free _ _ => e

/-- Bytes join the serial queue (R122); a free device has no queue. -/
def Env.joinSer (e : Env) (bs : List Byte) : Env :=
  match e.ser with
  | .queue q => { e with ser := .queue (q ++ bs) }
  | .free _ _ => e

/-! Checks before an operation. -/

/-- A marked state has no step (R32, R130, R131), and an ill-formed configuration is refused (R8, R131). -/
def checked (s : State) (k : Host.Outcome State Fault Refusal) : Host.Outcome State Fault Refusal :=
  if s.faulted then .fault .stuckFaulted
  else if s.refused then .fault .stuckRefused
  else if s.resetTaken then .fault .stuckReset
  else if wfConfig s.cfg then k
  else .refused .badConfig

/-- Every operation but RESET: F_UNINIT while init = 0, after the refusals (R33, R132). -/
def operation (i : Instr) (s : State) (k : Host.Outcome State Fault Refusal) :
    Host.Outcome State Fault Refusal :=
  checked s (if s.init then k else .fault (.uninit i))

/-- The code numbers of R130; the stuck states have none. -/
def faultCode : Fault → Option Nat
  | .uninit _ => some 1
  | .concurrentDrain _ _ => some 2
  | .stuckFaulted => none
  | .stuckRefused => none
  | .stuckReset => none

/-- The code numbers of R131; `notModelled`'s place is taken by none. -/
def refusalCode : Refusal → Option Nat
  | .badOpsel => some 1
  | .badOperand => some 2
  | .badConfig => some 3
  | .reinit => some 4
  | _ => none

/-- The state a step leaves: a fault sets `faulted` and a refusal sets `refused`, and neither changes anything else
(R130, R131). A stuck state is left as it is. -/
def settle (s : State) : Host.Outcome State Fault Refusal → State
  | .next t => t
  | .fault f => if (faultCode f).isSome then { s with faulted := true } else s
  | .refused _ => { s with refused := true }

/-! The decoder (R80 to R89). An operation returns its outcome, or none where the platform took the reset. -/

/-- `PortWrite(RESET_PORT, RESET_VALUE)` as an event of `hist` (R29, R88). -/
def resetEvent (c : Config) : PortWrite := ⟨c.resetPort, c.resetValue⟩

/-- The platform's answer to the reset write: SideEffect, or the end of the run with no outcome (R136). -/
def answerReset (r : Response) (s : State) : Option DecodeOutcome × State :=
  match r with
  | .continues => (some .sideEffect, s)
  | .resetTaken => (none, s.markReset)

/-- R88 and R136: the one write, then the platform's drawn answer. -/
def resetWrite (s : State) : Option DecodeOutcome × State :=
  answerReset s.env.takeResponse.1 ((s.record (resetEvent s.cfg)).setEnv s.env.takeResponse.2)

/-- R89: a table value of 0 is Ignored. -/
def outcomeOf (c : Byte) : DecodeOutcome := if c = 0 then .ignored else .char c

/-- `ms` after a press at index `idx` (R86). -/
def pressedMs (s : State) (idx : Byte) : BitVec 7 :=
  pressMs (tableRead s.cfg.modmap idx) (tableRead s.cfg.togmap idx) s.ms

/-- The table entry that a press at index `idx` looks up, after its update of `ms` (R86). -/
def lookedUp (s : State) (idx : Byte) : Byte := tableRead (charTable s.cfg (tableNumber (pressedMs s idx))) idx

/-- The resolved character of a press at index `idx` (R86, R87). -/
def pressedChar (s : State) (idx : Byte) : Byte := caseSwap (pressedMs s idx) (lookedUp s idx)

/-- CTRL and ALT are held in the `ms` that a press at index `idx` leaves (R88). -/
def ctrlAltHeld (s : State) (idx : Byte) : Bool := holds (pressedMs s idx) (msCtrl ||| msAlt)

/-- The reset condition (R88), on `ms` and the character after R86 and R87. -/
def firesReset (s : State) (idx : Byte) : Bool :=
  ctrlAltHeld s idx && pressedChar s idx == s.cfg.keys.del

/-- Steps 4 to 7 of a press at index `idx` (R86 to R89). -/
def press (idx : Byte) (s : State) : Option DecodeOutcome × State :=
  if firesReset s idx then resetWrite (s.setMs (pressedMs s idx))
  else (some (outcomeOf (pressedChar s idx)), s.setMs (pressedMs s idx))

/-- A release at index `idx` (R82, R83). -/
def release (idx : Byte) (s : State) : Option DecodeOutcome × State :=
  (some .ignored, s.setMs (releaseMs (tableRead s.cfg.modmap idx) s.ms))

/-- The prefix (R81). -/
def escape (s : State) : Option DecodeOutcome × State := (some .ignored, s.setMs (setEsc s.ms))

/-- DECODE's seven steps (R80). -/
def decodeByte (b : Byte) (s : State) : Option DecodeOutcome × State :=
  if b = escPrefix then escape s
  else if isRelease b then release (releaseIndex s.ms b) s
  else if escPending s.ms then press (pressIndex s.ms b) (s.setMs (clearEsc s.ms))
  else press (pressIndex s.ms b) s

/-- The state after the bytes `bs` are decoded, from the reset state under configuration `c`. -/
def decodedFromReset (c : Config) (bs : List Byte) : State :=
  bs.foldl (fun s b => (decodeByte b s).2) { State.reset with cfg := c }

/-- R68 item 6: some press that bytes from reset can reach looks up KEY_DEL with CTRL and ALT held. CTRL is held at the
lookup, so that table is MAP2 or, with SHIFT, MAP3 (R59). A reset write among the bytes is itself the press of a shorter
such list, so going on past the platform's answer adds nothing. -/
def deleteReachable (c : Config) : Prop :=
  ∃ (bs : List Byte) (b : Byte), isRelease b = false ∧
    let s := decodedFromReset c bs
    let idx := pressIndex s.ms b
    let s := s.setMs (clearEsc s.ms)
    ctrlAltHeld s idx = true ∧ lookedUp s idx = c.keys.del

/-- R68: a configuration meets what the source itself fixes, items 1 to 6. -/
def meetsSource (c : Config) : Prop := sourceEntries c = true ∧ deleteReachable c

/-- Delivers an operation's outcome as its result. -/
def finish (r : Option DecodeOutcome × State) : State :=
  match r.1 with
  | some o => r.2.setResult (some (.outcome o))
  | none => r.2

/-! The ring buffer. -/

/-- R100: no fullness check, and `rd` is not written. -/
def rbPush (v : Byte) (s : State) : State := (memWrite s (slotOf s.wr) v).setWr (s.wr + 1)

/-- The read cursor after the catch-up past overwritten bytes (R101, D5). -/
def caughtUp (s : State) : BitVec 32 :=
  if BitVec.ofNat 32 ringCap < pending s then s.wr - BitVec.ofNat 32 ringCap else s.rd

/-- R101. -/
def rbPop (s : State) : Option Byte × State :=
  if s.wr = s.rd then (none, s)
  else (some (memRead s (slotOf (caughtUp s))), s.setRd (caughtUp s + 1))

/-! The sources. -/

/-- R90: the status read, and only if the data-in-buffer bit is set the data read and its decoding. -/
def kbdSource (s : State) : Option DecodeOutcome × State :=
  let st := s.env.readKbdStatus s.cfg.kbdDibMask
  let s := s.setEnv st.2
  if st.1 &&& s.cfg.kbdDibMask = 0 then (some .noEvent, s)
  else
    let dt := s.env.readKbdData
    decodeByte dt.1 (s.setEnv dt.2)

/-- R113: no draw at all while `serial_exists` is 0; the byte skips the decoder. -/
def serialSource (s : State) : Option DecodeOutcome × State :=
  if s.serialExists then
    let rdy := s.env.readSerReady
    let s := s.setEnv rdy.2
    if rdy.1 then
      let dt := s.env.readSerData
      (some (outcomeOf dt.1), s.setEnv dt.2)
    else (some .noEvent, s)
  else (some .noEvent, s)

/-- The source of a drain (R114). -/
def querySource : Source → State → Option DecodeOutcome × State
  | .kbd, s => kbdSource s
  | .ser, s => serialSource s

/-! The drain. KBDRB takes no exception (R130) and no trap (R137): an interrupt's entry is the entry step of its drain,
and its return is that drain's exit step (R137, R138). Both are below, one operation each for every context. -/

/-- A drain's entry step (R114) under the exclusion of R134. While a drain runs, `masked` holds the newcomer, which has
no effect (log 16), and `unprotected` faults before any source query. -/
def drainEnter (ctx : Ctx) (src : Source) (s : State) : Host.Outcome State Fault Refusal :=
  match s.drain with
  | none => .next (s.setDrain (some ⟨ctx, src⟩))
  | some d =>
    match s.cfg.exclusion with
    | .masked => .next s
    | .unprotected => .fault (.concurrentDrain d.owner ctx)

/-- One more drain of the poll is done (R31, R118). -/
def CState.advance : CState → CState
  | .idle => .idle
  | .poll k o => .poll (if k = 0 then 1 else 2) o
  | .get k o => .get (if k = 0 then 1 else 2) o

/-- A drain's exit step (R114): the consumer's own drain counts for its poll (R118); an interrupt leaves the
consumer the `cstate` it had (R137, R138). -/
def drainExit (owner : Ctx) (s : State) : State :=
  match owner with
  | .consumer => (s.setDrain none).setCState s.cstate.advance
  | .kbdIrq => s.setDrain none
  | .serIrq => s.setDrain none

/-- What a drain does with its source's outcome (R112, R114): it exits, pushes, or goes on. With ResetTaken there is no
outcome and the drain does not finish (R136). -/
def drainTake (owner : Ctx) (r : Option DecodeOutcome × State) : State :=
  match r.1 with
  | none => r.2
  | some .noEvent => drainExit owner r.2
  | some (.char c) => rbPush c r.2
  | some .ignored => r.2
  | some .sideEffect => r.2

/-- One iteration of a drain, an atomic step (R48, R114). -/
def drainStep (d : Drain) (s : State) : State := drainTake d.owner (querySource d.src s)

/-! The consumer's multi-step operations. -/

/-- The start of POLL_CHAR (R118): the order is drawn. -/
def pollStart (s : State) : State :=
  (s.setEnv s.env.takeOrder.2).setCState (.poll 0 s.env.takeOrder.1)

/-- The start of an iteration of GET_CHAR (R120): a poll of its own, with its own order. -/
def getStart (s : State) : State :=
  (s.setEnv s.env.takeOrder.2).setCState (.get 0 s.env.takeOrder.1)

/-- The last step of POLL_CHAR (R118). -/
def pollPop (s : State) : State :=
  ((rbPop s).2.setCState .idle).setResult (some (.popped (rbPop s).1))

/-- The last step of an iteration of GET_CHAR (R120): a nonzero byte is returned, anything else starts the next one. -/
def getPop (s : State) : State :=
  match (rbPop s).1 with
  | some v => if v = 0 then getStart (rbPop s).2 else ((rbPop s).2.setCState .idle).setResult (some (.gotChar v))
  | none => getStart (rbPop s).2

/-- RESET's effect (R150). The storage is any value: every slot is unwritten. -/
def resetState (s : State) : State :=
  { s with
    ms := 0, wr := 0, rd := 0, buf := [], serialExists := false, hist := [], drain := none, cstate := .idle,
    init := true, serialDone := false, result := none }

end Sys2Proof.Machine
end

