-- ==== Sys2Proof/Machine/Boot.lean ====
section
/-!
DEFINITION. RESET (R150).
-/

namespace Sys2Proof.Machine

/-- RESET: refused while init = 1 (R33, R131), else the reset state of R34. -/
def execReset (s : State) : Host.Outcome State Fault Refusal :=
  checked s (if s.init then .refused .reinit else .next (resetState s))

end Sys2Proof.Machine
end

