-- ==== Sys2Proof/Machine/Consumer.lean ====
section
/-!
DEFINITION. POLL_CHAR (R118) and GET_CHAR (R120): their start steps. Their drains and their pop are the machine's next
steps (R48, R119, Machine/Schedule.lean).
-/

namespace Sys2Proof.Machine

/-- R118. -/
def execPollChar (s : State) : Host.Outcome State Fault Refusal :=
  operation .pollChar s (.next (pollStart s))

/-- R120. -/
def execGetChar (s : State) : Host.Outcome State Fault Refusal :=
  operation .getChar s (.next (getStart s))

end Sys2Proof.Machine
end

