-- ==== Sys2Proof/Machine/Decoder.lean ====
section
/-!
DEFINITION. The scancode decoder: the five byte classes (R81 to R85), DECODE (R80) and KBD_SOURCE (R90).
A class is executed as the decoding of one byte of that class (log 12).
-/

namespace Sys2Proof.Machine

/-- R81. -/
def execScEscape (s : State) : Host.Outcome State Fault Refusal :=
  operation .scEscape s (.next (finish (escape s)))

/-- R82: `idx = b & 0x7F`. -/
def execScRelease (k : BitVec 7) (s : State) : Host.Outcome State Fault Refusal :=
  operation (.scRelease k) s (.next (finish (release (plainIndex k) s)))

/-- R83: `idx = b`. -/
def execScReleaseExt (k : BitVec 7) (s : State) : Host.Outcome State Fault Refusal :=
  operation (.scReleaseExt k) s (.next (finish (release (extIndex k) s)))

/-- R84: `idx = b`. -/
def execScPress (k : BitVec 7) (s : State) : Host.Outcome State Fault Refusal :=
  operation (.scPress k) s (.next (finish (press (plainIndex k) s)))

/-- R85: `idx = b | 0x80`, and ESC is cleared first. -/
def execScPressExt (k : BitVec 7) (s : State) : Host.Outcome State Fault Refusal :=
  operation (.scPressExt k) s (.next (finish (press (extIndex k) (s.setMs (clearEsc s.ms)))))

/-- R80. -/
def execDecode (b : Byte) (s : State) : Host.Outcome State Fault Refusal :=
  operation (.decode b) s (.next (finish (decodeByte b s)))

/-- R90. -/
def execKbdSource (s : State) : Host.Outcome State Fault Refusal :=
  operation .kbdSource s (.next (finish (kbdSource s)))

end Sys2Proof.Machine
end

