-- ==== Sys2Proof/Machine/Drains.lean ====
section
/-!
DEFINITION. SERIAL_SOURCE (R113), DRAIN (R114) and the interrupt entry points (R116, R117). A drain operation is its
entry step; its iterations and its exit are the machine's next steps (R48, Machine/Schedule.lean).
-/

namespace Sys2Proof.Machine

/-- R113. -/
def execSerialSource (s : State) : Host.Outcome State Fault Refusal :=
  operation .serialSource s (.next (finish (serialSource s)))

/-- R114, `DRAIN(kbd, consumer)`. -/
def execDrainKbd (s : State) : Host.Outcome State Fault Refusal :=
  operation .drainKbd s (drainEnter .consumer .kbd s)

/-- R114, `DRAIN(ser, consumer)`. -/
def execDrainSer (s : State) : Host.Outcome State Fault Refusal :=
  operation .drainSer s (drainEnter .consumer .ser s)

/-- R116, `DRAIN(kbd, kbd_irq)`. As a command word it looks at no enable bit (C10, log 17). -/
def execKbdIntr (s : State) : Host.Outcome State Fault Refusal :=
  operation .kbdIntr s (drainEnter .kbdIrq .kbd s)

/-- R117, `DRAIN(ser, ser_irq)`. -/
def execSerialIntr (s : State) : Host.Outcome State Fault Refusal :=
  operation .serialIntr s (drainEnter .serIrq .ser s)

end Sys2Proof.Machine
end

