-- ==== Sys2Proof/Machine/Ring.lean ====
section
/-!
DEFINITION. The ring buffer's operations: RB_PUSH (R100) and RB_POP (R101).
-/

namespace Sys2Proof.Machine

/-- R100. Under `masked` a standalone push is admitted only while no drain runs; until then it is held and has no
effect (log 16). -/
def execRbPush (v : Byte) (s : State) : Host.Outcome State Fault Refusal :=
  operation (.rbPush v) s
    (.next (if s.drain.isSome && s.cfg.exclusion == .masked then s else rbPush v s))

/-- R101. -/
def execRbPop (s : State) : Host.Outcome State Fault Refusal :=
  operation .rbPop s (.next ((rbPop s).2.setResult (some (.popped (rbPop s).1))))

end Sys2Proof.Machine
end

