-- ==== Sys2Proof/Machine/Dispatch.lean ====
section
/-!
DEFINITION. One arm per operation.
-/

namespace Sys2Proof.Machine

def exec (i : Instr) (s : State) : Host.Outcome State Fault Refusal :=
  match i with
  | .scEscape => Sys2Proof.Machine.execScEscape s
  | .scRelease k => Sys2Proof.Machine.execScRelease k s
  | .scReleaseExt k => Sys2Proof.Machine.execScReleaseExt k s
  | .scPress k => Sys2Proof.Machine.execScPress k s
  | .scPressExt k => Sys2Proof.Machine.execScPressExt k s
  | .reset => Sys2Proof.Machine.execReset s
  | .decode b => Sys2Proof.Machine.execDecode b s
  | .kbdSource => Sys2Proof.Machine.execKbdSource s
  | .serialSource => Sys2Proof.Machine.execSerialSource s
  | .rbPush v => Sys2Proof.Machine.execRbPush v s
  | .rbPop => Sys2Proof.Machine.execRbPop s
  | .drainKbd => Sys2Proof.Machine.execDrainKbd s
  | .drainSer => Sys2Proof.Machine.execDrainSer s
  | .kbdIntr => Sys2Proof.Machine.execKbdIntr s
  | .serialIntr => Sys2Proof.Machine.execSerialIntr s
  | .pollChar => Sys2Proof.Machine.execPollChar s
  | .getChar => Sys2Proof.Machine.execGetChar s

end Sys2Proof.Machine
end

