-- ==== Sys2Proof/Machine/Schedule.lean ====
section
/-!
DEFINITION. Which agent moves at a step boundary and what its micro-step is (R48, R49, R119, R133 to R138), and the
fetching of the next operation. Machine/Step.lean only calls this.
-/

namespace Sys2Proof.Machine

/-- What a step boundary leads to: an answer at once, or an operation to execute in the state given. -/
inductive Plan where
  | answer (o : Host.Outcome State Fault Refusal)
  | issue (i : Instr) (s : State)

/-- Whether an interrupt context is active: its drain runs (R116, R117, R138). -/
def irqActive (s : State) : Bool := s.drainOwner == some .kbdIrq || s.drainOwner == some .serIrq

/-- R133: (a) init (the marks are checked before), (b) the enable, (c) no interrupt context active, (d) under `masked`
no drain in progress. -/
def admitsIrq (x : Source) (s : State) : Bool :=
  s.init && irqEnabled s.cfg x && !irqActive s
    && (s.cfg.exclusion == .unprotected || s.drain.isNone)

/-- Serial init happens once, after RESET, while no drain and no poll is in progress (R28, R151 step 4, log 21). -/
def admitsSerialInit (s : State) : Bool :=
  s.init && !s.serialDone && s.drain.isNone && s.cstate == .idle

/-- The consumer's next step inside a poll: an entry of one of the two drains (R118). -/
def pollEnter (src : Source) (s : State) : Host.Outcome State Fault Refusal :=
  if s.init then drainEnter .consumer src s else .fault (.uninit (drainInstr src))

/-- The consumer's pop inside a poll (R118, R120). -/
def popStep (t : State) (s : State) : Host.Outcome State Fault Refusal :=
  if s.init then .next t else .fault (.uninit .rbPop)

/-- The refusal of a command word (R131). -/
def decodeRefusal : DecodeError → Refusal
  | .badOpsel => .badOpsel
  | .badOperand => .badOperand

/-- The consumer is idle: the next operation is taken and decoded; a refused word changes nothing (R131). With none
left the block waits (R150, log 22). -/
def fetch (s : State) : Plan :=
  match s.env.prog with
  | [] => .answer (.next s)
  | x :: rest =>
    match decodeInput (escPending s.ms) x with
    | .ok i => .issue i (s.setEnv { s.env with prog := rest })
    | .error e => .answer (.refused (decodeRefusal e))

/-- The step of the context that is running (R133, R138): the drain in progress, else the consumer. -/
def contextStep (s : State) : Plan :=
  match s.drain with
  | some d =>
    .answer (if s.init then .next (drainStep d s) else .fault (.uninit (sourceInstr d.src)))
  | none =>
    match s.cstate with
    | .idle => fetch s
    | .poll k o =>
      if k = 0 then .answer (pollEnter o.first s)
      else if k = 1 then .answer (pollEnter o.second s)
      else .answer (popStep (pollPop s) s)
    | .get k o =>
      if k = 0 then .answer (pollEnter o.first s)
      else if k = 1 then .answer (pollEnter o.second s)
      else .answer (popStep (getPop s) s)

/-- A turn that its rule does not admit here goes to the running context: an interrupt is held (R133, R134, log 9). -/
def planTurn (t : Turn) (s : State) : Plan :=
  match t with
  | .go => contextStep s
  | .irq x => if admitsIrq x s then .issue (irqInstr x) s else contextStep s
  | .serialInit present =>
    if admitsSerialInit s then .answer (.next (s.latchSerial present)) else contextStep s
  | .kbdBytes bs => .answer (.next (s.setEnv (s.env.joinKbd bs)))
  | .serBytes bs => .answer (.next (s.setEnv (s.env.joinSer bs)))
  | .configChange => .answer (.refused .badConfig)

/-- The plan of a step boundary: the next turn is taken from the schedule. -/
def plan (s : State) : Plan := planTurn s.env.takeTurn.1 (s.setEnv s.env.takeTurn.2)

end Sys2Proof.Machine
end

