-- ==== Sys2Proof/Machine/Step.lean ====
section
/-!
DEFINITION. One step of KBDRB: the checks, the turn, and the running context's micro-step or the operation issued.
-/

namespace Sys2Proof.Machine

/-- Carries out a plan. -/
def Plan.run : Plan → Host.Outcome State Fault Refusal
  | .answer o => o
  | .issue i s => exec i s

/-- One atomic step (R48, R49). -/
def step (s : State) : Host.Outcome State Fault Refusal := checked s (plan s).run

/-- The state in which the very next step takes the given input as the consumer's next operation: it heads the
operations, the next turn is the running context's, and that is the idle consumer (log 10). -/
def State.withFetchWord (s : State) (nbits w : Nat) : State :=
  { s with
    drain := none
    cstate := .idle
    env := { s.env with
      prog := inputOfBits nbits w :: s.env.prog
      turns := .go :: s.env.turns } }

end Sys2Proof.Machine
end

