-- ==== Sys2Proof/Safety.lean ====
section
/-!
DEFINITION. The terms statements use: the conditions under which an operation executes normally, the end of a run
(R158), sequences of operations, the queue that the ring buffer stands for, and the invariants of the step.
-/

namespace Sys2Proof.Machine

/-- No run mark is set (R32). -/
def unmarked (s : State) : Bool := !s.faulted && !s.refused && !s.resetTaken

/-- An operation is admitted and initialised: no mark, a well-formed configuration (R8), init = 1 (R33). -/
def ready (s : State) : Bool := unmarked s && wfConfig s.cfg && s.init

/-- The consumer issues its next operation: no drain and no multi-step operation is in progress, and the schedule's
next turn is the running context's. -/
def issues (s : State) : Bool :=
  s.drain.isNone && s.cstate == .idle && s.env.turns.head? == some .go

/-- The state with the next turn taken, when the schedule lists one. -/
def afterTurn (s : State) : State := s.setEnv { s.env with turns := s.env.turns.tail }

/-- A final state (R158). A drain owned by an interrupt context is a drain in progress, so one condition covers both. -/
def final (s : State) : Bool :=
  s.init && unmarked s && s.cstate == .idle && s.drain.isNone && s.env.prog.isEmpty

/-- A reset end (R158): terminal, and not final. -/
def resetEnd (s : State) : Bool := s.resetTaken

/-- A sequence of operations, each executed in the state the one before left. -/
def execAll : List Instr → State → Host.Outcome State Fault Refusal
  | [], s => .next s
  | i :: is, s =>
    match exec i s with
    | .next t => execAll is t
    | .fault f => .fault f
    | .refused r => .refused r

/-- The results of `n` pops in a row. -/
def popResults : Nat → State → List (Option Result)
  | 0, _ => []
  | n + 1, s =>
    match exec .rbPop s with
    | .next t => t.result :: popResults n t
    | .fault _ => []
    | .refused _ => []

/-- The unread bytes, oldest first: the slots of the last `unread` pushes (R26, R103). -/
def unreadBytes (s : State) : List Byte :=
  (List.range (unread s)).map fun j =>
    memRead s (slotOf (s.wr - BitVec.ofNat 32 (unread s) + BitVec.ofNat 32 j))

/-- The last CAP members of a list. -/
def newest (bs : List Byte) : List Byte := bs.drop (bs.length - ringCap)

/-- The ring storage is in its canonical form. -/
def CanonicalStorage (s : State) : Prop := Memory.wf s.buf = true

/-- R25: the slot of each unread byte has been written since reset. -/
def UnreadWritten (s : State) : Prop :=
  ∀ j, j < unread s → (Memory.lookup s.buf (slotOf (s.wr - 1 - BitVec.ofNat 32 j))).isSome = true

/-- R29: the only write KBDRB issues is the reset write. -/
def OnlyResetWrites (s : State) : Prop := ∀ w ∈ s.hist, w = resetEvent s.cfg

/-- R89, R120: no delivered outcome is Char(0), and GET_CHAR never returns 0. -/
def NoZeroDelivered (s : State) : Prop :=
  s.result ≠ some (.outcome (.char 0)) ∧ s.result ≠ some (.gotChar 0)

/-- Which drain a context may run, given the consumer's position (R114, R116, R117, R118, R120). -/
def drainFits (d : Drain) (c : CState) : Prop :=
  match d.owner with
  | .kbdIrq => d.src = .kbd
  | .serIrq => d.src = .ser
  | .consumer =>
    match c with
    | .idle => True
    | .poll k o => (k = 0 ∧ d.src = o.first) ∨ (k = 1 ∧ d.src = o.second)
    | .get k o => (k = 0 ∧ d.src = o.first) ∨ (k = 1 ∧ d.src = o.second)

/-- `drain_owner` and `cstate` agree on what is in progress (R30, R31). -/
def PositionsAgree (s : State) : Prop := ∀ d, s.drain = some d → drainFits d s.cstate

end Sys2Proof.Machine
end

