-- ==== Sys2Proof/Certificates/Slice0/Obligations.lean ====
section
/-!
DEFINITION. The statements for the provers, one for each rule they formalise; OBLIGATIONS.json lists them.
A statement over all states holds for every configuration, schedule, device and draw, since they are data in State.
-/

open Sys2Proof Sys2Proof.Machine

/-! Encodings (30_encoding.md). -/

/-- A few words written out from R55 and R64: bits 7 = R and 6:0 = K; opsel 15:12, rsv 11:8, operand 7:0. That
`decodeTableWord`, which has no state, reads 0xAA and 0x1E as the plain rows is the model's reading with ESC = 0 (log 11,
DEDUCED); under ESC = 1 the same kind of byte is read as the extended row, as the two `decodeInput true` clauses show. -/
def Obligations.SpecWordsDecode : Prop :=
  decodeTableWord 8 0b11100000 = some .scEscape
    ∧ decodeTableWord 8 0b10101010 = some (.scRelease 0x2A)
    ∧ decodeTableWord 8 0b00011110 = some (.scPress 0x1E)
    ∧ decodeInput true (.scancode 0b10011101) = .ok (.scReleaseExt 0x1D)
    ∧ decodeInput true (.scancode 0b01001000) = .ok (.scPressExt 0x48)
    ∧ decodeTableWord 16 0b0001000000011110 = some (.decode 0x1E)
    ∧ decodeTableWord 16 0b0100000001000001 = some (.rbPush 0x41)
    ∧ decodeTableWord 16 0b0110000000000001 = some .drainSer
    ∧ decodeTableWord 16 0b1010000000000000 = some .getChar

/-- Decoding the encoding of a well-formed operation gives it back, under the ESC bit its class is read under (R56, R64). -/
def Obligations.DecodeEncodeRoundTrip : Prop :=
  ∀ (i : Instr) (esc : Bool), i.wf = true → i.readsUnder esc = true → decodeInput esc (encode i) = .ok i

/-- Every input the decoder accepts is the encoding of what it reads, which is well-formed (R56, R64). -/
def Obligations.EncodingIsUnique : Prop :=
  ∀ (esc : Bool) (x : Encoded) (i : Instr), decodeInput esc x = .ok i →
    encode i = x ∧ i.wf = true ∧ i.readsUnder esc = true

/-- R56: the five byte classes, tested in order, for every byte and either ESC bit. -/
def Obligations.ByteClassesInOrder : Prop :=
  ∀ b : Byte,
    (b = 0xE0 → ∀ esc, decodeScancode esc b = .scEscape)
      ∧ (b ≠ 0xE0 → b.getLsbD 7 = true →
          decodeScancode false b = .scRelease (b.setWidth 7)
            ∧ decodeScancode true b = .scReleaseExt (b.setWidth 7))
      ∧ (b.getLsbD 7 = false →
          decodeScancode false b = .scPress (b.setWidth 7)
            ∧ decodeScancode true b = .scPressExt (b.setWidth 7))

/-- R58: the index of each class, the four rows of its table. The second half of each clause, that a plain key K uses
0x00 + K and an extended key 0x80 + K for press and release alike, is an inference R58 marks as its own ("derived: from
the four rows"). -/
def Obligations.TableIndexOfClass : Prop :=
  ∀ (ms : BitVec 7) (b : Byte),
    (b.getLsbD 7 = true → ms.getLsbD 6 = false → releaseIndex ms b = b &&& 0x7F ∧ releaseIndex ms b = plainIndex (b.setWidth 7))
      ∧ (b.getLsbD 7 = true → ms.getLsbD 6 = true → releaseIndex ms b = b ∧ releaseIndex ms b = extIndex (b.setWidth 7))
      ∧ (b.getLsbD 7 = false → ms.getLsbD 6 = false → pressIndex ms b = b ∧ pressIndex ms b = plainIndex (b.setWidth 7))
      ∧ (b.getLsbD 7 = false → ms.getLsbD 6 = true →
          pressIndex ms b = b ||| 0x80 ∧ pressIndex ms b = extIndex (b.setWidth 7))

/-- R59: the table that CTRL and SHIFT select, whatever ALT and the other bits are. -/
def Obligations.TableSelectedByCtrlShift : Prop :=
  ∀ (c : Config) (ms : BitVec 7),
    charTable c (tableNumber ms) =
      match ms.getLsbD 1, ms.getLsbD 0 with
      | false, false => c.map0
      | false, true => c.map1
      | true, false => c.map2
      | true, true => c.map3

/-- R64, R131: every command word. The words of the eleven operations, each with its operand, and of every other word
which refusal it gets; the reserved opsels are judged first (vectors E3, E9; DEDUCED, log 30). -/
def Obligations.CommandWordRefusals : Prop :=
  decodeCommand 0x0000 = .ok .reset ∧ decodeCommand 0x2000 = .ok .kbdSource ∧ decodeCommand 0x3000 = .ok .serialSource
    ∧ decodeCommand 0x5000 = .ok .rbPop ∧ decodeCommand 0x6000 = .ok .drainKbd ∧ decodeCommand 0x6001 = .ok .drainSer
    ∧ decodeCommand 0x7000 = .ok .kbdIntr ∧ decodeCommand 0x8000 = .ok .serialIntr
    ∧ decodeCommand 0x9000 = .ok .pollChar ∧ decodeCommand 0xA000 = .ok .getChar
    ∧ (∀ b : Byte, decodeCommand (0x10#8 ++ b) = .ok (.decode b) ∧ decodeCommand (0x40#8 ++ b) = .ok (.rbPush b))
    ∧ ∀ w : CommandWord,
        (0xB000 ≤ w.toNat → decodeCommand w = .error .badOpsel)
          ∧ (w.toNat < 0xB000 → rsvOf w ≠ 0 → decodeCommand w = .error .badOperand)
          ∧ (w.toNat < 0xB000 → opselOf w ≠ 1 → opselOf w ≠ 4 → opselOf w ≠ 6 → operandOf w ≠ 0 →
              decodeCommand w = .error .badOperand)
          ∧ (opselOf w = 6 → operandOf w ≠ 0 → operandOf w ≠ 1 → decodeCommand w = .error .badOperand)

/-! The step (20_memory.md, 60_exceptions.md). -/

/-- A step of the idle consumer is the execution of the operation it decodes, with the turn and the operation taken. That
operations and turns are lists in State is the model's form of the environment (log 9, 10). -/
def Obligations.StepRunsDecodedOperation : Prop :=
  ∀ (s : State) (x : Encoded) (rest : List Encoded) (ts : List Turn) (i : Instr),
    unmarked s = true → wfConfig s.cfg = true → s.drain = none → s.cstate = .idle →
    s.env.turns = .go :: ts → s.env.prog = x :: rest → decodeInput (s.ms.getLsbD 6) x = .ok i →
    step s = exec i { s with env := { s.env with turns := ts, prog := rest } }

/-- The word placed by withFetchWord is the next operation executed; how a word is placed is the model's (log 10). -/
def Obligations.FetchedWordIsExecuted : Prop :=
  ∀ (s : State) (nbits w : Nat) (i : Instr),
    unmarked s = true → wfConfig s.cfg = true →
    decodeInput (s.ms.getLsbD 6) (inputOfBits nbits w) = .ok i →
    step (s.withFetchWord nbits w) = exec i { s with drain := none, cstate := .idle }

/-- R131: a refused word ends the run with its refusal, sets `refused`, and changes no other state. That the turn and the
word count as not taken is the model's reading of that (log 18, DEDUCED). -/
def Obligations.RefusedWordChangesNothing : Prop :=
  ∀ (s : State) (w : CommandWord) (rest : List Encoded) (e : DecodeError),
    unmarked s = true → wfConfig s.cfg = true → issues s = true →
    s.env.prog = .command w :: rest → decodeCommand w = .error e →
    step s = .refused (match e with | .badOpsel => .badOpsel | .badOperand => .badOperand)
      ∧ settle s (step s) = { s with refused := true }

/-- R32, R130, R131, R158: a marked state has no step. That a step there answers a fault of the model's own, with no code
of R130 and no further mark, is the model's form of being stuck (log 19, DEDUCED). -/
def Obligations.MarkedStateIsStuck : Prop :=
  ∀ s : State, unmarked s = false → ∃ f, step s = .fault f ∧ faultCode f = none ∧ settle s (step s) = s

/-- R33: before RESET every other operation faults with F_UNINIT; RESET makes init 1, and is refused when it is 1. -/
def Obligations.InitGuardsEveryOperation : Prop :=
  ∀ s : State, unmarked s = true → wfConfig s.cfg = true →
    (s.init = false → ∀ i : Instr, i ≠ .reset → exec i s = .fault (.uninit i))
      ∧ (s.init = false → ∃ t, exec .reset s = .next t ∧ t.init = true)
      ∧ (s.init = true → exec .reset s = .refused .reinit)

/-- R130: a fault of the spec sets `faulted`; R131: a refusal sets `refused`. That everything else, the turn, the
operation and the draws among it, is left as it was is the model's reading (log 18, DEDUCED): R130 says only that the mark
is set, and R131 says it of a refused word. -/
def Obligations.FaultAndRefusalSetOneMark : Prop :=
  ∀ s : State, unmarked s = true →
    (∀ f, step s = .fault f → (faultCode f).isSome = true ∧ settle s (step s) = { s with faulted := true })
      ∧ ∀ r, step s = .refused r → settle s (step s) = { s with refused := true }

/-- R8, R131: an ill-formed configuration is refused, whatever the operation or the turn. That it is checked at every
step is the model's choice (log 20). -/
def Obligations.IllFormedConfigIsRefused : Prop :=
  ∀ s : State, unmarked s = true → wfConfig s.cfg = false →
    step s = .refused .badConfig ∧ ∀ i, exec i s = .refused .badConfig

/-- R45, R53: no step changes the configuration, and an attempt to change it during a run is refused. -/
def Obligations.ConfigurationNeverChanges : Prop :=
  (∀ s t : State, step s = .next t → t.cfg = s.cfg)
    ∧ ∀ (s : State) (ts : List Turn), unmarked s = true → wfConfig s.cfg = true →
        s.env.turns = .configChange :: ts → step s = .refused .badConfig

/-- With no operation left the idle block waits (R150: it waits for its next operation). That waiting is a next state in
which only the turn is taken is the model's reading (log 22, DEDUCED). -/
def Obligations.IdleBlockWaits : Prop :=
  ∀ s : State, unmarked s = true → wfConfig s.cfg = true → issues s = true → s.env.prog = [] →
    step s = .next (afterTurn s)

/-! Interrupts (60_exceptions.md). -/

/-- R133: an interrupt whose conditions (a) to (d) hold starts its entry point; one whose conditions fail is held, and
the running context steps as if it had not come (that it then has the boundary's turn is the model's choice, log 9). -/
def Obligations.InterruptAdmission : Prop :=
  ∀ (s : State) (x : Source) (ts : List Turn), unmarked s = true → wfConfig s.cfg = true →
    s.env.turns = .irq x :: ts →
    let enabled := match x with | .kbd => s.cfg.irqKbdEn | .ser => s.cfg.irqSerEn
    let admitted := s.init = true ∧ enabled = true ∧ s.drainOwner ≠ some .kbdIrq ∧ s.drainOwner ≠ some .serIrq
      ∧ (s.cfg.exclusion = .masked → s.drain = none)
    (admitted → step s = exec (match x with | .kbd => .kbdIntr | .ser => .serialIntr) (afterTurn s))
      ∧ (¬ admitted → step s = step { s with env := { s.env with turns := .go :: ts } })

/-- R134: while a drain runs, under `masked` an interrupt that arrives is held; under `unprotected` one that arrives
during the consumer's drain faults at its entry step, before any source query. The same of the entry operations
themselves (that a held entry leaves the state as it is is the model's choice, log 16). -/
def Obligations.DrainExclusion : Prop :=
  ∀ (s : State) (d : Drain), ready s = true → s.drain = some d →
    (∀ (x : Source) (ts : List Turn), s.env.turns = .irq x :: ts →
      (s.cfg.exclusion = .masked → step s = step { s with env := { s.env with turns := .go :: ts } })
        ∧ (s.cfg.exclusion = .unprotected → d.owner = .consumer →
            (match x with | .kbd => s.cfg.irqKbdEn | .ser => s.cfg.irqSerEn) = true →
            step s = .fault (.concurrentDrain .consumer (match x with | .kbd => .kbdIrq | .ser => .serIrq))))
      ∧ ∀ i ctx, (i, ctx) ∈ [(Instr.drainKbd, Ctx.consumer), (.drainSer, .consumer), (.kbdIntr, .kbdIrq), (.serialIntr, .serIrq)] →
          (s.cfg.exclusion = .masked → exec i s = .next s)
            ∧ (s.cfg.exclusion = .unprotected → exec i s = .fault (.concurrentDrain d.owner ctx))

/-- R134: under `masked` no two drains ever overlap: no step raises F_CONCURRENT_DRAIN, and a drain in progress stays the
drain in progress or ends, so no other takes its place. The second half holds under either exclusion. -/
def Obligations.MaskedDrainsNeverOverlap : Prop :=
  ∀ s : State,
    (s.cfg.exclusion = .masked → ∀ a b : Ctx, step s ≠ .fault (.concurrentDrain a b))
      ∧ ∀ (d : Drain) (t : State), s.drain = some d → step s = .next t → t.drain = some d ∨ t.drain = none

/-- R137: while an interrupt context is active, no step touches `rd`, `cstate`, `serial_exists`, the consumer's result or
its operations. -/
def Obligations.InterruptLeavesConsumerAlone : Prop :=
  ∀ (s t : State) (d : Drain), s.drain = some d → d.owner ≠ .consumer → step s = .next t →
    t.rd = s.rd ∧ t.cstate = s.cstate ∧ t.serialExists = s.serialExists ∧ t.result = s.result
      ∧ t.env.prog = s.env.prog ∧ (t.drain = s.drain ∨ t.drain = none)

/-- R50: while a drain runs `rd` is not written; while none runs and the consumer is inside a poll, `wr` and `buf` are not. -/
def Obligations.SingleWriters : Prop :=
  ∀ s t : State, step s = .next t →
    (s.drain ≠ none → t.rd = s.rd)
      ∧ (s.drain = none → s.cstate ≠ .idle → t.wr = s.wr ∧ t.buf = s.buf)

/-! RESET (70_reset_and_hazards.md, 10_state.md). -/

/-- R150: RESET from init = 0 leaves the reset state: no slot of the storage is written, the configuration, the run marks
and the environment are untouched. -/
def Obligations.ResetOperation : Prop :=
  ∀ s : State, unmarked s = true → wfConfig s.cfg = true → s.init = false →
    exec .reset s = .next
      { s with ms := 0, wr := 0, rd := 0, buf := [], serialExists := false, hist := [], drain := none,
               cstate := .idle, init := true, serialDone := false, result := none }

/-- R34: the state after RESET, element by element, the configuration being the one at launch. No slot of the storage is
written (log 8), and State.reset is the state after RESET (log 1): both are the model's. -/
def Obligations.ResetStateValues : Prop :=
  State.reset.ms = 0x00 ∧ (∀ a : Fin ringCap, Memory.lookup State.reset.buf a = none)
    ∧ State.reset.wr = 0 ∧ State.reset.rd = 0 ∧ State.reset.serialExists = false ∧ State.reset.hist = []
    ∧ State.reset.drainOwner = none ∧ State.reset.cstate = .idle ∧ State.reset.init = true
    ∧ State.reset.faulted = false ∧ State.reset.refused = false ∧ State.reset.resetTaken = false
    ∧ State.reset.cfg = State.launch.cfg ∧ exec .reset State.launch = .next State.reset

/-- Serial init latches `serial_exists` once, after RESET, between the consumer's operations (R28, R151 step 4); one that
comes again, or inside a drain or a poll, is held. When it is admitted is the model's choice (log 21). No other step of an
initialised block writes `serial_exists` or the model's `serialDone`, and before RESET a step leaves both or clears both. -/
def Obligations.SerialInitLatchesOnce : Prop :=
  (∀ (s : State) (p : Bool) (ts : List Turn), ready s = true → s.env.turns = .serialInit p :: ts →
    (s.serialDone = false → s.drain = none → s.cstate = .idle →
        step s = .next { afterTurn s with serialExists := p, serialDone := true })
      ∧ (s.serialDone = true ∨ s.drain ≠ none ∨ s.cstate ≠ .idle →
          step s = step { s with env := { s.env with turns := .go :: ts } }))
    ∧ ∀ s t : State, step s = .next t →
        (s.init = true →
          (t.serialExists = s.serialExists ∧ t.serialDone = s.serialDone)
            ∨ (s.serialDone = false ∧ s.drain = none ∧ s.cstate = .idle ∧ t.serialDone = true
                ∧ s.env.turns.head? = some (.serialInit t.serialExists)))
          ∧ (s.init = false →
              (t.serialExists = s.serialExists ∧ t.serialDone = s.serialDone)
                ∨ (t.init = true ∧ t.serialExists = false ∧ t.serialDone = false))

/-! The decoder (40_decoder.md). -/

/-- R81: the prefix sets ESC, returns Ignored, and changes nothing else. -/
def Obligations.PrefixSetsEscape : Prop :=
  (∀ s : State, ready s = true →
      exec .scEscape s = .next { s with ms := s.ms ||| 0x40, result := some (.outcome .ignored) })
    ∧ (∀ s : State, ready s = true → exec (.decode 0xE0) s = exec .scEscape s)
    ∧ ∀ (s : State) (k : BitVec 7), ready s = true →
        execAll [.decode 0xE0, .decode 0xE0, .decode (0#1 ++ k)] s = execAll [.decode 0xE0, .decode (0#1 ++ k)] s

/-- R82: a release with no prefix pending clears its MODMAP bits and ESC, returns Ignored, and changes nothing else; no
toggle bit changes, and one with no MODMAP bit leaves `ms` as it was. K = 0x60 is the prefix byte, no release. -/
def Obligations.ReleaseClearsModifiers : Prop :=
  ∀ (s : State) (k : BitVec 7), ready s = true → s.ms.getLsbD 6 = false → k ≠ 0x60 →
    let m := s.ms &&& ~~~((tableRead s.cfg.modmap (0#1 ++ k)).setWidth 7 ||| 0x40)
    exec (.decode (1#1 ++ k)) s = exec (.scRelease k) s
      ∧ exec (.scRelease k) s = .next { s with ms := m, result := some (.outcome .ignored) }
      ∧ m &&& 0x38 = s.ms &&& 0x38
      ∧ (tableRead s.cfg.modmap (0#1 ++ k) = 0 → m = s.ms)

/-- R83: a release with the prefix pending does the same at the extended slot 0x80 + K, the slot its press used; with no
MODMAP bit it only clears ESC. -/
def Obligations.ExtendedReleaseClearsModifiers : Prop :=
  ∀ (s : State) (k : BitVec 7), ready s = true → s.ms.getLsbD 6 = true → k ≠ 0x60 →
    let m := s.ms &&& ~~~((tableRead s.cfg.modmap (1#1 ++ k)).setWidth 7 ||| 0x40)
    exec (.decode (1#1 ++ k)) s = exec (.scReleaseExt k) s
      ∧ exec (.scReleaseExt k) s = .next { s with ms := m, result := some (.outcome .ignored) }
      ∧ releaseIndex s.ms (1#1 ++ k) = 1#1 ++ k ∧ pressIndex s.ms (0#1 ++ k) = 1#1 ++ k
      ∧ m &&& 0x38 = s.ms &&& 0x38
      ∧ (tableRead s.cfg.modmap (1#1 ++ k) = 0 → m = s.ms &&& 0x3F)

/-- R84, with R86 to R89 in order: a press with no prefix pending updates `ms`, looks its character up after that update,
swaps its case, and either fires the one reset write and takes the platform's answer or delivers the character; nothing
else changes (that ResetTaken leaves the last result standing is the model's choice, log 13). -/
def Obligations.PressEffect : Prop :=
  ∀ (s : State) (k : BitVec 7), ready s = true → s.ms.getLsbD 6 = false →
    let idx : Byte := 0#1 ++ k
    let m := (s.ms ||| (tableRead s.cfg.modmap idx).setWidth 7) ^^^ (tableRead s.cfg.togmap idx).setWidth 7
    let c := caseSwap m (tableRead (charTable s.cfg (tableNumber m)) idx)
    exec (.decode (0#1 ++ k)) s = exec (.scPress k) s ∧ exec (.scPress k) s = .next
      (if m.getLsbD 1 = true ∧ m.getLsbD 2 = true ∧ c = s.cfg.keys.del then
        (let h := s.hist ++ [⟨s.cfg.resetPort, s.cfg.resetValue⟩]
         let e := s.env.takeResponse.2
         match s.env.takeResponse.1 with
         | .continues => { s with ms := m, hist := h, env := e, result := some (.outcome .sideEffect) }
         | .resetTaken => { s with ms := m, hist := h, env := e, resetTaken := true })
      else { s with ms := m, result := some (.outcome (if c = 0 then .ignored else .char c)) })

/-- R85: a press with the prefix pending clears ESC and then does what a press does, at the extended slot 0x80 + K (that
ResetTaken leaves the last result standing is the model's choice, log 13). -/
def Obligations.ExtendedPressEffect : Prop :=
  ∀ (s : State) (k : BitVec 7), ready s = true → s.ms.getLsbD 6 = true →
    let idx : Byte := 1#1 ++ k
    let m := (s.ms &&& 0x3F ||| (tableRead s.cfg.modmap idx).setWidth 7) ^^^ (tableRead s.cfg.togmap idx).setWidth 7
    let c := caseSwap m (tableRead (charTable s.cfg (tableNumber m)) idx)
    exec (.decode (0#1 ++ k)) s = exec (.scPressExt k) s ∧ exec (.scPressExt k) s = .next
      (if m.getLsbD 1 = true ∧ m.getLsbD 2 = true ∧ c = s.cfg.keys.del then
        (let h := s.hist ++ [⟨s.cfg.resetPort, s.cfg.resetValue⟩]
         let e := s.env.takeResponse.2
         match s.env.takeResponse.1 with
         | .continues => { s with ms := m, hist := h, env := e, result := some (.outcome .sideEffect) }
         | .resetTaken => { s with ms := m, hist := h, env := e, resetTaken := true })
      else { s with ms := m, result := some (.outcome (if c = 0 then .ignored else .char c)) })

/-- R86: a press sets the momentary bits of its MODMAP entry, flips the toggle bits of its TOGMAP entry, and leaves the
other bits; a press with the prefix pending also clears ESC. -/
def Obligations.PressModifierUpdate : Prop :=
  ∀ (s : State) (k : BitVec 7), ready s = true →
    (s.ms.getLsbD 6 = false → ∃ t, exec (.scPress k) s = .next t
        ∧ (∀ j, j < 3 → t.ms.getLsbD j = (s.ms.getLsbD j || (tableRead s.cfg.modmap (0#1 ++ k)).getLsbD j))
        ∧ (∀ j, 3 ≤ j → j < 6 → t.ms.getLsbD j = (s.ms.getLsbD j ^^ (tableRead s.cfg.togmap (0#1 ++ k)).getLsbD j))
        ∧ t.ms.getLsbD 6 = false)
      ∧ (s.ms.getLsbD 6 = true → ∃ t, exec (.scPressExt k) s = .next t
        ∧ (∀ j, j < 3 → t.ms.getLsbD j = (s.ms.getLsbD j || (tableRead s.cfg.modmap (1#1 ++ k)).getLsbD j))
        ∧ (∀ j, 3 ≤ j → j < 6 → t.ms.getLsbD j = (s.ms.getLsbD j ^^ (tableRead s.cfg.togmap (1#1 ++ k)).getLsbD j))
        ∧ t.ms.getLsbD 6 = false)

/-- R87: under CAPSLOCK exactly the ASCII letters change, each to the other case; without it nothing does. -/
def Obligations.CapsLockSwapsLetters : Prop :=
  ∀ (ms : BitVec 7) (c : Byte),
    (ms.getLsbD 3 = false → caseSwap ms c = c)
      ∧ (ms.getLsbD 3 = true → 0x61 ≤ c.toNat → c.toNat ≤ 0x7A → (caseSwap ms c).toNat = c.toNat - 0x20)
      ∧ (ms.getLsbD 3 = true → 0x41 ≤ c.toNat → c.toNat ≤ 0x5A → (caseSwap ms c).toNat = c.toNat + 0x20)
      ∧ (c.toNat < 0x41 ∨ (0x5A < c.toNat ∧ c.toNat < 0x61) ∨ 0x7A < c.toNat → caseSwap ms c = c)

/-- R80, R56: DECODE of a byte always answers a next state, that of the byte's class. -/
def Obligations.DecodeRunsItsClass : Prop :=
  ∀ (s : State) (b : Byte), ready s = true →
    exec (.decode b) s = exec (decodeScancode (s.ms.getLsbD 6) b) s ∧ ∃ t, exec (.decode b) s = .next t

/-- R91: the eight laws of the decoder, for every well-formed configuration. The laws are an inference that R91 marks as
its own ("derived: from rules R80–R89"). -/
def Obligations.LawsOfTheDecoder : Prop :=
  ∀ (s : State) (b : Byte), ready s = true → ∃ t, exec (.decode b) s = .next t
    -- 1: an ESCAPE, RELEASE or RELEASE_EXT byte yields Ignored and never writes `hist`
    ∧ (b.getLsbD 7 = true → t.result = some (.outcome .ignored) ∧ t.hist = s.hist)
    -- 2: afterwards ESC = 1 iff the byte is the prefix
    ∧ (t.ms.getLsbD 6 = true ↔ b = 0xE0)
    -- 3: toggle bits change only on presses whose TOGMAP entry is nonzero
    ∧ (t.ms &&& 0x38 ≠ s.ms &&& 0x38 → b.getLsbD 7 = false ∧ tableRead s.cfg.togmap (pressIndex s.ms b) ≠ 0)
    -- 4: momentary bits are set only by presses and cleared only by releases
    ∧ (b.getLsbD 7 = true → t.ms &&& 0x07 &&& ~~~s.ms = 0)
    ∧ (b.getLsbD 7 = false ∨ b = 0xE0 → s.ms &&& 0x07 &&& ~~~t.ms = 0)
    -- 5: Char(c) always has c ≠ 0
    ∧ (t.resetTaken = false → t.result ≠ some (.outcome (.char 0)))
    -- 6: SideEffect, and with it the write, occurs iff a press ends with CTRL and ALT set and c = KEY_DEL
    ∧ ((t.hist = s.hist ++ [⟨s.cfg.resetPort, s.cfg.resetValue⟩]) ↔
        (b.getLsbD 7 = false ∧ t.ms.getLsbD 1 = true ∧ t.ms.getLsbD 2 = true
          ∧ caseSwap t.ms (tableRead (charTable s.cfg (tableNumber t.ms)) (pressIndex s.ms b)) = s.cfg.keys.del))
    ∧ (t.resetTaken = false →
        (t.result = some (.outcome .sideEffect) ↔ t.hist = s.hist ++ [⟨s.cfg.resetPort, s.cfg.resetValue⟩]))
    -- 7: NUMLOCK and SCROLLLOCK never affect an outcome
    ∧ (∀ m : BitVec 7, m &&& 0x4F = s.ms &&& 0x4F → ∃ u, exec (.decode b) { s with ms := m } = .next u
        ∧ u.result = t.result ∧ u.hist = t.hist ∧ u.resetTaken = t.resetTaken)
    -- 8: DECODE never reads or writes the ring buffer
    ∧ (∀ (q : Memory) (w r : BitVec 32),
        exec (.decode b) { s with buf := q, wr := w, rd := r } = .next { t with buf := q, wr := w, rd := r })
    ∧ t.buf = s.buf ∧ t.wr = s.wr ∧ t.rd = s.rd

/-- R90: KBD_SOURCE reads the status; with the data-in-buffer bit clear it returns NoEvent and does not read the data
port, else it reads one byte and is DECODE of it; before RESET it faults. -/
def Obligations.KeyboardSource : Prop :=
  ∀ s : State, unmarked s = true → wfConfig s.cfg = true →
    let st := (s.env.readKbdStatus s.cfg.kbdDibMask).1
    let e := (s.env.readKbdStatus s.cfg.kbdDibMask).2
    decodeCommand 0x2000 = .ok .kbdSource
      ∧ (s.init = false → exec .kbdSource s = .fault (.uninit .kbdSource))
      ∧ (s.init = true → st &&& s.cfg.kbdDibMask = 0 →
          exec .kbdSource s = .next { s with env := e, result := some (.outcome .noEvent) })
      ∧ (s.init = true → st &&& s.cfg.kbdDibMask ≠ 0 →
          exec .kbdSource s = exec (.decode e.readKbdData.1) { s with env := e.readKbdData.2 }
            ∧ ∃ t, exec .kbdSource s = .next t)

/-! Devices and draws (20_memory.md, 42_dispatch.md). -/

/-- R122: the reference queue device: the status shows KBD_DIB_MASK iff bytes wait, a data read removes the head; bytes
that join a queue, in a turn of their own (log 24), are appended to it, and nothing but the queue and the turn changes. A
free device has no queue to join: the turn alone is taken (log 29). -/
def Obligations.QueueDeviceAnswers : Prop :=
  (∀ (e : Env) (mask b : Byte) (q : List Byte),
    (e.kbd = .queue [] → e.readKbdStatus mask = (0x00, e))
      ∧ (e.kbd = .queue (b :: q) → e.readKbdStatus mask = (mask, e) ∧ e.readKbdData = (b, { e with kbd := .queue q }))
      ∧ (e.ser = .queue [] → e.readSerReady = (false, e))
      ∧ (e.ser = .queue (b :: q) → e.readSerReady = (true, e) ∧ e.readSerData = (b, { e with ser := .queue q })))
    ∧ ∀ (s : State) (bs : List Byte) (ts : List Turn), unmarked s = true → wfConfig s.cfg = true →
        (s.env.turns = .kbdBytes bs :: ts →
          step s = .next { s with env := { s.env with turns := ts, kbd := match s.env.kbd with
            | .queue q => .queue (q ++ bs)
            | .free status data => .free status data } })
          ∧ (s.env.turns = .serBytes bs :: ts →
              step s = .next { s with env := { s.env with turns := ts, ser := match s.env.ser with
                | .queue q => .queue (q ++ bs)
                | .free rdy data => .free rdy data } })

/-- R47, R113, R118, R136: a draw is the next value listed, for every value that may be listed, and consumes it. -/
def Obligations.ListedDrawsAreTaken : Prop :=
  ∀ (e : Env) (b : Byte) (bs ds : List Byte) (r : Bool) (rs : List Bool) (p : Response) (ps : List Response)
    (o : Order) (os : List Order) (mask : Byte),
    (e.kbd = .free (b :: bs) ds → e.readKbdStatus mask = (b, { e with kbd := .free bs ds }))
      ∧ (e.kbd = .free ds (b :: bs) → e.readKbdData = (b, { e with kbd := .free ds bs }))
      ∧ (e.ser = .free (r :: rs) ds → e.readSerReady = (r, { e with ser := .free rs ds }))
      ∧ (e.ser = .free rs (b :: bs) → e.readSerData = (b, { e with ser := .free rs bs }))
      ∧ (e.resps = p :: ps → e.takeResponse = (p, { e with resps := ps }))
      ∧ (e.orders = o :: os → e.takeOrder = (o, { e with orders := os }))

/-- R113: SERIAL_SOURCE: NoEvent with no draw while the hardware is absent, NoEvent while not ready, else the byte, with
0 ignored; `ms` is never touched; before RESET it faults. -/
def Obligations.SerialSource : Prop :=
  ∀ s : State, unmarked s = true → wfConfig s.cfg = true →
    let rdy := s.env.readSerReady
    let v := rdy.2.readSerData
    decodeCommand 0x3000 = .ok .serialSource
      ∧ (s.init = false → exec .serialSource s = .fault (.uninit .serialSource))
      ∧ (s.init = true → s.serialExists = false →
          exec .serialSource s = .next { s with result := some (.outcome .noEvent) })
      ∧ (s.init = true → s.serialExists = true → rdy.1 = false →
          exec .serialSource s = .next { s with env := rdy.2, result := some (.outcome .noEvent) })
      ∧ (s.init = true → s.serialExists = true → rdy.1 = true →
          exec .serialSource s = .next
            { s with env := v.2, result := some (.outcome (if v.1 = 0 then .ignored else .char v.1)) })

/-! The ring buffer (41_ring_buffer.md). -/

/-- R100: a push stores any byte at slot `wr mod CAP` and advances `wr` modulo 2^32; no other slot and nothing else
changes, full or not. Under `masked` it is not admitted while a drain runs: it then has none of its effect. Before RESET
it faults. -/
def Obligations.PushStoresAndAdvances : Prop :=
  ∀ (s : State) (v : Byte), unmarked s = true → wfConfig s.cfg = true →
    decodeCommand (0x40#8 ++ v) = .ok (.rbPush v)
      ∧ (s.init = false → exec (.rbPush v) s = .fault (.uninit (.rbPush v)))
      ∧ (s.init = true → (s.drain = none ∨ s.cfg.exclusion = .unprotected) →
          ∃ t, exec (.rbPush v) s = .next t ∧ t = { s with buf := t.buf, wr := t.wr }
            ∧ t.wr.toNat = (s.wr.toNat + 1) % 2 ^ 32
            ∧ ∀ a : Fin ringCap, memRead t a = if (a : Nat) = s.wr.toNat % 512 then v else memRead s a)
      ∧ (s.init = true → s.drain ≠ none → s.cfg.exclusion = .masked →
          ∀ t, exec (.rbPush v) s = .next t → t.wr = s.wr ∧ t.buf = s.buf)

/-- R101: an empty pop returns None and changes nothing; otherwise the pop catches up past overwritten bytes, returns the
byte at the read cursor's slot and advances `rd`; before RESET it faults. -/
def Obligations.PopReturnsOldestUnread : Prop :=
  ∀ s : State, unmarked s = true → wfConfig s.cfg = true →
    let d := (s.wr.toNat + (2 ^ 32 - s.rd.toNat)) % 2 ^ 32
    let from' := if 512 < d then s.wr - 512 else s.rd
    decodeCommand 0x5000 = .ok .rbPop
      ∧ (s.init = false → exec .rbPop s = .fault (.uninit .rbPop))
      ∧ (s.init = true → s.wr = s.rd → exec .rbPop s = .next { s with result := some (.popped none) })
      ∧ (s.init = true → s.wr ≠ s.rd →
          exec .rbPop s = .next { s with rd := from' + 1, result := some (.popped (some (memRead s (slotOf from')))) })

/-- R102: a cursor that wraps advances its slot like any other step, an inference R102 marks as its own ("derived: from
00_scope.md rule R8 condition 5"), with the spec's example at 2^32 - 2. -/
def Obligations.SlotsContinueAcrossWrap : Prop :=
  (∀ x : BitVec 32, (slotOf (x + 1) : Nat) = ((slotOf x : Nat) + 1) % 512)
    ∧ ∀ s : State, ready s = true → s.drain = none → s.wr = 4294967294 → s.rd = 4294967294 →
        ∃ t, execAll [.rbPush 0x41, .rbPush 0x42, .rbPush 0x43] s = .next t ∧ t.wr = 1 ∧ t.wr - t.rd = 3
          ∧ (∀ a : Fin ringCap, memRead t a =
              if (a : Nat) = 510 then 0x41 else if (a : Nat) = 511 then 0x42 else if (a : Nat) = 0 then 0x43 else memRead s a)
          ∧ popResults 4 t =
              [some (.popped (some 0x41)), some (.popped (some 0x42)), some (.popped (some 0x43)), some (.popped none)]

/-- R103: with no push between, exactly `unread = min(d, CAP)` pops return a byte before None, an inference R103 marks as
its own ("derived: from rules R100 and R101"). -/
def Obligations.UnreadCountBoundsPops : Prop :=
  ∀ s : State, ready s = true →
    unread s ≤ 512
      ∧ (∀ n, n ≤ unread s → ∃ bs : List Byte, bs.length = n
          ∧ popResults n s = bs.map fun b => some (.popped (some b)))
      ∧ ∃ bs : List Byte, bs.length = unread s
          ∧ popResults (unread s + 1) s = (bs.map fun b => some (.popped (some b))) ++ [some (.popped none)]

/-- R104 (an inference it marks as its own, "derived: from rules R100, R101 and R103"): from an empty buffer, after
n < 2^32 pushes and no pop between, the pops return the pushed bytes in push order, all of them if n ≤ CAP and the last
CAP otherwise, and then None. The loss is silent (R105): every push and pop completes. -/
def Obligations.PopsReturnPushesInOrder : Prop :=
  ∀ (s : State) (vs : List Byte), ready s = true → s.drain = none → s.wr = s.rd → vs.length < 2 ^ 32 →
    ∃ t, execAll (vs.map .rbPush) s = .next t
      ∧ popResults ((newest vs).length + 1) t =
          ((newest vs).map fun b => some (.popped (some b))) ++ [some (.popped none)]
      ∧ (vs.length ≤ 512 → newest vs = vs) ∧ (512 < vs.length → (newest vs).length = 512)

/-- R106: counter aliasing. From an empty buffer, after any number of pushes `d` is that number modulo 2^32, so after
2^32 or more it is not the count; after exactly 2^32 pushes `wr = rd` and a pop reports None though every slot is stored;
after 2^32 + k pushes, 0 < k ≤ CAP, `d = k` and the pops return only the last k bytes. -/
def Obligations.CursorAliasing : Prop :=
  ∀ (s : State) (vs : List Byte), ready s = true → s.drain = none → s.wr = s.rd →
    (∃ t, execAll (vs.map .rbPush) s = .next t ∧ (t.wr - t.rd).toNat = vs.length % 2 ^ 32)
      ∧ (vs.length = 2 ^ 32 → ∃ t, execAll (vs.map .rbPush) s = .next t ∧ t.wr = t.rd
        ∧ (∀ a : Fin ringCap, (Memory.lookup t.buf a).isSome = true)
        ∧ popResults 1 t = [some (.popped none)])
      ∧ ∀ k, 0 < k → k ≤ 512 → vs.length = 2 ^ 32 + k →
          ∃ t, execAll (vs.map .rbPush) s = .next t ∧ (t.wr - t.rd).toNat = k
            ∧ popResults (k + 1) t =
                ((vs.drop (2 ^ 32)).map fun b => some (.popped (some b))) ++ [some (.popped none)]

/-- R104 with pushes and pops interleaved: a push appends to the queue of unread bytes, of which the newest CAP stay; a
pop takes the oldest. The push that makes the counters alias (R106) is left to CursorAliasing. -/
def Obligations.RingRefinesQueue : Prop :=
  ∀ s : State, ready s = true → s.drain = none →
    (∀ v : Byte, (s.wr - s.rd).toNat ≠ 2 ^ 32 - 1 →
        ∃ t, exec (.rbPush v) s = .next t ∧ unreadBytes t = newest (unreadBytes s ++ [v]))
      ∧ ∃ t, exec .rbPop s = .next t ∧ t.result = some (.popped (unreadBytes s).head?)
          ∧ unreadBytes t = (unreadBytes s).tail

/-! Dispatch (42_dispatch.md). -/

/-- R114, R116, R117: with no drain in progress the entry step records the context and the source, and nothing else
(that the source is kept is the model's choice, log 14). -/
def Obligations.DrainEntryStarts : Prop :=
  ∀ s : State, ready s = true → s.drain = none →
    exec .drainKbd s = .next { s with drain := some ⟨.consumer, .kbd⟩ }
      ∧ exec .drainSer s = .next { s with drain := some ⟨.consumer, .ser⟩ }
      ∧ exec .kbdIntr s = .next { s with drain := some ⟨.kbdIrq, .kbd⟩ }
      ∧ exec .serialIntr s = .next { s with drain := some ⟨.serIrq, .ser⟩ }

/-- R112, R114, R136, R138: one iteration of a drain queries its source, KBD_SOURCE or SERIAL_SOURCE, and acts on the
outcome that operation returns: a character is pushed; Ignored and SideEffect push nothing; NoEvent ends the drain, which
advances the consumer's poll if the drain was the consumer's (in the same step, log 15, DEDUCED) and leaves `cstate` alone
if it was an interrupt's; with ResetTaken there is no outcome and the drain does not finish. A drain leaves the last
operation's result standing (log 13). -/
def Obligations.DrainIteration : Prop :=
  ∀ (s : State) (d : Drain) (ts : List Turn), ready s = true → s.drain = some d → s.env.turns = .go :: ts →
    let r := querySource d.src (afterTurn s)
    (∃ u, exec (match d.src with | .kbd => .kbdSource | .ser => .serialSource) (afterTurn s) = .next u
        ∧ r.2 = { u with result := s.result } ∧ (∀ o, r.1 = some o → u.result = some (.outcome o))
        ∧ (r.1 = none ↔ u.resetTaken = true))
      ∧ (∀ c, r.1 = some (.char c) →
        c ≠ 0 ∧ step s = .next { r.2 with buf := Memory.insert r.2.buf (slotOf r.2.wr) c, wr := r.2.wr + 1 })
      ∧ (r.1 = some .ignored ∨ r.1 = some .sideEffect → step s = .next r.2)
      ∧ (r.1 = some .noEvent → d.owner ≠ .consumer → step s = .next { r.2 with drain := none })
      ∧ (r.1 = some .noEvent → d.owner = .consumer →
          step s = .next { r.2 with drain := none, cstate := match s.cstate with
            | .idle => .idle
            | .poll k o => if k = 0 then .poll 1 o else .poll 2 o
            | .get k o => if k = 0 then .get 1 o else .get 2 o })
      ∧ (r.1 = none → step s = .next r.2 ∧ r.2.resetTaken = true ∧ r.2.drain = some d)

/-- R118, R120: POLL_CHAR and GET_CHAR start by drawing the order of the two drains, and change nothing else. That this is
a step of its own is the model's reading (log 15, DEDUCED). -/
def Obligations.PollAndGetStart : Prop :=
  ∀ s : State, ready s = true →
    (∀ o os, s.env.orders = o :: os →
        exec .pollChar s = .next { s with env := { s.env with orders := os }, cstate := .poll 0 o }
          ∧ exec .getChar s = .next { s with env := { s.env with orders := os }, cstate := .get 0 o })
      ∧ (s.env.orders = [] → ∃ o,
          exec .pollChar s = .next { s with env := { s.env with draws := s.env.draws + 1 }, cstate := .poll 0 o }
            ∧ exec .getChar s = .next { s with env := { s.env with draws := s.env.draws + 1 }, cstate := .get 0 o })

/-- R118, R120: inside a poll the consumer enters the drain of the order's first source, then of its second. -/
def Obligations.PollEntersBothDrains : Prop :=
  ∀ (s : State) (o : Order) (ts : List Turn), ready s = true → s.drain = none → s.env.turns = .go :: ts →
    (s.cstate = .poll 0 o ∨ s.cstate = .get 0 o →
        step s = .next { afterTurn s with
          drain := some ⟨.consumer, match o with | .kbdFirst => .kbd | .serFirst => .ser⟩ })
      ∧ (s.cstate = .poll 1 o ∨ s.cstate = .get 1 o →
          step s = .next { afterTurn s with
            drain := some ⟨.consumer, match o with | .kbdFirst => .ser | .serFirst => .kbd⟩ })

/-- R118: POLL_CHAR's last step is one RB_POP; it returns the pop's result and is idle again. -/
def Obligations.PollEndsWithOnePop : Prop :=
  ∀ (s : State) (o : Order) (ts : List Turn), ready s = true → s.drain = none → s.cstate = .poll 2 o →
    s.env.turns = .go :: ts →
    ∃ u, exec .rbPop (afterTurn s) = .next u ∧ step s = .next { u with cstate := .idle }

/-- R120: GET_CHAR's pop returns a nonzero byte and is idle again; None and Some(0) start another poll, with the order that
a new draw gives (R118), in the same step (log 15, DEDUCED); the last result then stands (log 13). -/
def Obligations.GetCharSkipsZeroAndEmpty : Prop :=
  ∀ (s : State) (o : Order) (ts : List Turn), ready s = true → s.drain = none → s.cstate = .get 2 o →
    s.env.turns = .go :: ts →
    ∃ u, exec .rbPop (afterTurn s) = .next u
      ∧ (∀ v, u.result = some (.popped (some v)) → v ≠ 0 →
          step s = .next { u with cstate := .idle, result := some (.gotChar v) })
      ∧ (u.result = some (.popped none) ∨ u.result = some (.popped (some 0)) →
          step s = .next
            { u with cstate := .get 0 u.env.takeOrder.1, env := u.env.takeOrder.2, result := s.result })

/-- R118, R113: with both devices empty, a POLL_CHAR with no interrupt returns after its six steps what one pop returns. The
number of steps follows the model's step boundaries (log 15, DEDUCED). -/
def Obligations.PollCharReturnsFromEmptyDevices : Prop :=
  ∀ (s : State) (rest : List Encoded) (ts : List Turn), ready s = true → s.drain = none → s.cstate = .idle →
    s.env.kbd = .queue [] → s.env.ser = .queue [] → s.env.prog = .command 0x9000 :: rest →
    s.env.turns = List.replicate 6 .go ++ ts →
    ∃ t u, Host.Core.run core 6 s = .next t ∧ exec .rbPop s = .next u
      ∧ t.result = u.result ∧ t.rd = u.rd ∧ t.wr = s.wr ∧ t.buf = s.buf ∧ t.ms = s.ms
      ∧ t.cstate = .idle ∧ t.drain = none ∧ t.env.prog = rest

/-- R114, R113, R117: a serial drain of a queue of n bytes, with no interrupt, exits after n + 1 iterations and has pushed
exactly the nonzero bytes, in order; `ms` and `rd` are untouched. -/
def Obligations.SerialDrainDeliversQueue : Prop :=
  ∀ (s : State) (owner : Ctx) (q : List Byte) (ts : List Turn), ready s = true → s.serialExists = true →
    s.drain = some ⟨owner, .ser⟩ → s.env.ser = .queue q → s.env.turns = List.replicate (q.length + 1) .go ++ ts →
    ∃ t u, Host.Core.run core (q.length + 1) s = .next t
      ∧ execAll ((q.filter (· ≠ 0)).map .rbPush) { s with drain := none } = .next u
      ∧ t.buf = u.buf ∧ t.wr = u.wr ∧ t.rd = s.rd ∧ t.ms = s.ms ∧ t.hist = s.hist
      ∧ t.drain = none ∧ t.env.ser = .queue [] ∧ t.env.turns = ts

/-- R115, R159 (a): a keyboard drain of a queue of n bytes, with no interrupt, ends within n + 1 iterations, by its exit
or by the platform's reset. -/
def Obligations.KeyboardDrainTerminates : Prop :=
  ∀ (s : State) (owner : Ctx) (q : List Byte) (ts : List Turn), ready s = true →
    s.drain = some ⟨owner, .kbd⟩ → s.env.kbd = .queue q → s.env.turns = List.replicate (q.length + 1) .go ++ ts →
    ∃ n t, n ≤ q.length + 1 ∧ Host.Core.run core n s = .next t ∧ (t.drain = none ∨ t.resetTaken = true)

/-! Invariants: from every state that meets one, a step leads to a state that meets it. -/

/-- The ring storage stays in its canonical form: slots below CAP (R44), strictly rising. -/
def Obligations.StepKeepsStorageCanonical : Prop :=
  ∀ s t : State, CanonicalStorage s → step s = .next t → CanonicalStorage t

/-- R25: the slot of every unread byte has been written since reset, so no pop reads a slot before a push has written it. -/
def Obligations.StepKeepsUnreadWritten : Prop :=
  (∀ s t : State, UnreadWritten s → step s = .next t → UnreadWritten t)
    ∧ ∀ s : State, UnreadWritten s → s.wr ≠ s.rd → (Memory.lookup s.buf (slotOf (caughtUp s))).isSome = true

/-- R29: the history holds nothing but reset writes, and after RESET a step appends at most one. -/
def Obligations.StepKeepsOnlyResetWrites : Prop :=
  ∀ s t : State, step s = .next t →
    (OnlyResetWrites s → OnlyResetWrites t)
      ∧ (s.init = true → t.hist = s.hist ∨ t.hist = s.hist ++ [⟨s.cfg.resetPort, s.cfg.resetValue⟩])

/-- R89, R120: no outcome Char(0) is ever delivered and GET_CHAR never returns 0. -/
def Obligations.StepKeepsNoZeroDelivered : Prop :=
  ∀ s t : State, NoZeroDelivered s → step s = .next t → NoZeroDelivered t

/-- R30, R31, R114 to R120: `drain_owner` and `cstate` stay a legal pair: an interrupt's drain is of its own source, a
poll's drain is the one its phase and order call for. -/
def Obligations.StepKeepsPositionsAgreeing : Prop :=
  ∀ s t : State, PositionsAgree s → step s = .next t → PositionsAgree t

/-- R32, R33: a step that answers a next state sets neither `faulted` nor `refused`, never clears init, and sets
`reset_taken` only with the reset write. -/
def Obligations.StepKeepsRunMarks : Prop :=
  ∀ s t : State, step s = .next t →
    t.faulted = false ∧ t.refused = false ∧ (s.init = true → t.init = true)
      ∧ (t.resetTaken = true → s.resetTaken = false ∧ t.hist = s.hist ++ [⟨s.cfg.resetPort, s.cfg.resetValue⟩])

/-- The state after reset meets the invariants, and is admitted and initialised under its configuration (REF, log 2). -/
def Obligations.ResetMeetsInvariants : Prop :=
  CanonicalStorage State.reset ∧ UnreadWritten State.reset ∧ OnlyResetWrites State.reset
    ∧ NoZeroDelivered State.reset ∧ PositionsAgree State.reset ∧ ready State.reset = true
end

