-- ==== Sys2Proof/Laws/State.lean ====
section
/-!
SUPPORT. One lemma per field per named update of State, so that no proof unfolds a record update.
-/

namespace Sys2Proof.Machine

variable (s : State)

@[simp] theorem State.setMs_ms (v : BitVec 7) : (s.setMs v).ms = v := rfl
@[simp] theorem State.setMs_buf (v : BitVec 7) : (s.setMs v).buf = s.buf := rfl
@[simp] theorem State.setMs_wr (v : BitVec 7) : (s.setMs v).wr = s.wr := rfl
@[simp] theorem State.setMs_rd (v : BitVec 7) : (s.setMs v).rd = s.rd := rfl
@[simp] theorem State.setMs_cfg (v : BitVec 7) : (s.setMs v).cfg = s.cfg := rfl
@[simp] theorem State.setMs_serialExists (v : BitVec 7) : (s.setMs v).serialExists = s.serialExists := rfl
@[simp] theorem State.setMs_hist (v : BitVec 7) : (s.setMs v).hist = s.hist := rfl
@[simp] theorem State.setMs_drain (v : BitVec 7) : (s.setMs v).drain = s.drain := rfl
@[simp] theorem State.setMs_cstate (v : BitVec 7) : (s.setMs v).cstate = s.cstate := rfl
@[simp] theorem State.setMs_init (v : BitVec 7) : (s.setMs v).init = s.init := rfl
@[simp] theorem State.setMs_faulted (v : BitVec 7) : (s.setMs v).faulted = s.faulted := rfl
@[simp] theorem State.setMs_refused (v : BitVec 7) : (s.setMs v).refused = s.refused := rfl
@[simp] theorem State.setMs_resetTaken (v : BitVec 7) : (s.setMs v).resetTaken = s.resetTaken := rfl
@[simp] theorem State.setMs_serialDone (v : BitVec 7) : (s.setMs v).serialDone = s.serialDone := rfl
@[simp] theorem State.setMs_result (v : BitVec 7) : (s.setMs v).result = s.result := rfl
@[simp] theorem State.setMs_env (v : BitVec 7) : (s.setMs v).env = s.env := rfl

@[simp] theorem State.setBuf_ms (m : Memory) : (s.setBuf m).ms = s.ms := rfl
@[simp] theorem State.setBuf_buf (m : Memory) : (s.setBuf m).buf = m := rfl
@[simp] theorem State.setBuf_wr (m : Memory) : (s.setBuf m).wr = s.wr := rfl
@[simp] theorem State.setBuf_rd (m : Memory) : (s.setBuf m).rd = s.rd := rfl
@[simp] theorem State.setBuf_cfg (m : Memory) : (s.setBuf m).cfg = s.cfg := rfl
@[simp] theorem State.setBuf_serialExists (m : Memory) : (s.setBuf m).serialExists = s.serialExists := rfl
@[simp] theorem State.setBuf_hist (m : Memory) : (s.setBuf m).hist = s.hist := rfl
@[simp] theorem State.setBuf_drain (m : Memory) : (s.setBuf m).drain = s.drain := rfl
@[simp] theorem State.setBuf_cstate (m : Memory) : (s.setBuf m).cstate = s.cstate := rfl
@[simp] theorem State.setBuf_init (m : Memory) : (s.setBuf m).init = s.init := rfl
@[simp] theorem State.setBuf_faulted (m : Memory) : (s.setBuf m).faulted = s.faulted := rfl
@[simp] theorem State.setBuf_refused (m : Memory) : (s.setBuf m).refused = s.refused := rfl
@[simp] theorem State.setBuf_resetTaken (m : Memory) : (s.setBuf m).resetTaken = s.resetTaken := rfl
@[simp] theorem State.setBuf_serialDone (m : Memory) : (s.setBuf m).serialDone = s.serialDone := rfl
@[simp] theorem State.setBuf_result (m : Memory) : (s.setBuf m).result = s.result := rfl
@[simp] theorem State.setBuf_env (m : Memory) : (s.setBuf m).env = s.env := rfl

@[simp] theorem State.setWr_ms (v : BitVec 32) : (s.setWr v).ms = s.ms := rfl
@[simp] theorem State.setWr_buf (v : BitVec 32) : (s.setWr v).buf = s.buf := rfl
@[simp] theorem State.setWr_wr (v : BitVec 32) : (s.setWr v).wr = v := rfl
@[simp] theorem State.setWr_rd (v : BitVec 32) : (s.setWr v).rd = s.rd := rfl
@[simp] theorem State.setWr_cfg (v : BitVec 32) : (s.setWr v).cfg = s.cfg := rfl
@[simp] theorem State.setWr_serialExists (v : BitVec 32) : (s.setWr v).serialExists = s.serialExists := rfl
@[simp] theorem State.setWr_hist (v : BitVec 32) : (s.setWr v).hist = s.hist := rfl
@[simp] theorem State.setWr_drain (v : BitVec 32) : (s.setWr v).drain = s.drain := rfl
@[simp] theorem State.setWr_cstate (v : BitVec 32) : (s.setWr v).cstate = s.cstate := rfl
@[simp] theorem State.setWr_init (v : BitVec 32) : (s.setWr v).init = s.init := rfl
@[simp] theorem State.setWr_faulted (v : BitVec 32) : (s.setWr v).faulted = s.faulted := rfl
@[simp] theorem State.setWr_refused (v : BitVec 32) : (s.setWr v).refused = s.refused := rfl
@[simp] theorem State.setWr_resetTaken (v : BitVec 32) : (s.setWr v).resetTaken = s.resetTaken := rfl
@[simp] theorem State.setWr_serialDone (v : BitVec 32) : (s.setWr v).serialDone = s.serialDone := rfl
@[simp] theorem State.setWr_result (v : BitVec 32) : (s.setWr v).result = s.result := rfl
@[simp] theorem State.setWr_env (v : BitVec 32) : (s.setWr v).env = s.env := rfl

@[simp] theorem State.setRd_ms (v : BitVec 32) : (s.setRd v).ms = s.ms := rfl
@[simp] theorem State.setRd_buf (v : BitVec 32) : (s.setRd v).buf = s.buf := rfl
@[simp] theorem State.setRd_wr (v : BitVec 32) : (s.setRd v).wr = s.wr := rfl
@[simp] theorem State.setRd_rd (v : BitVec 32) : (s.setRd v).rd = v := rfl
@[simp] theorem State.setRd_cfg (v : BitVec 32) : (s.setRd v).cfg = s.cfg := rfl
@[simp] theorem State.setRd_serialExists (v : BitVec 32) : (s.setRd v).serialExists = s.serialExists := rfl
@[simp] theorem State.setRd_hist (v : BitVec 32) : (s.setRd v).hist = s.hist := rfl
@[simp] theorem State.setRd_drain (v : BitVec 32) : (s.setRd v).drain = s.drain := rfl
@[simp] theorem State.setRd_cstate (v : BitVec 32) : (s.setRd v).cstate = s.cstate := rfl
@[simp] theorem State.setRd_init (v : BitVec 32) : (s.setRd v).init = s.init := rfl
@[simp] theorem State.setRd_faulted (v : BitVec 32) : (s.setRd v).faulted = s.faulted := rfl
@[simp] theorem State.setRd_refused (v : BitVec 32) : (s.setRd v).refused = s.refused := rfl
@[simp] theorem State.setRd_resetTaken (v : BitVec 32) : (s.setRd v).resetTaken = s.resetTaken := rfl
@[simp] theorem State.setRd_serialDone (v : BitVec 32) : (s.setRd v).serialDone = s.serialDone := rfl
@[simp] theorem State.setRd_result (v : BitVec 32) : (s.setRd v).result = s.result := rfl
@[simp] theorem State.setRd_env (v : BitVec 32) : (s.setRd v).env = s.env := rfl

@[simp] theorem State.setDrain_ms (d : Option Drain) : (s.setDrain d).ms = s.ms := rfl
@[simp] theorem State.setDrain_buf (d : Option Drain) : (s.setDrain d).buf = s.buf := rfl
@[simp] theorem State.setDrain_wr (d : Option Drain) : (s.setDrain d).wr = s.wr := rfl
@[simp] theorem State.setDrain_rd (d : Option Drain) : (s.setDrain d).rd = s.rd := rfl
@[simp] theorem State.setDrain_cfg (d : Option Drain) : (s.setDrain d).cfg = s.cfg := rfl
@[simp] theorem State.setDrain_serialExists (d : Option Drain) : (s.setDrain d).serialExists = s.serialExists := rfl
@[simp] theorem State.setDrain_hist (d : Option Drain) : (s.setDrain d).hist = s.hist := rfl
@[simp] theorem State.setDrain_drain (d : Option Drain) : (s.setDrain d).drain = d := rfl
@[simp] theorem State.setDrain_cstate (d : Option Drain) : (s.setDrain d).cstate = s.cstate := rfl
@[simp] theorem State.setDrain_init (d : Option Drain) : (s.setDrain d).init = s.init := rfl
@[simp] theorem State.setDrain_faulted (d : Option Drain) : (s.setDrain d).faulted = s.faulted := rfl
@[simp] theorem State.setDrain_refused (d : Option Drain) : (s.setDrain d).refused = s.refused := rfl
@[simp] theorem State.setDrain_resetTaken (d : Option Drain) : (s.setDrain d).resetTaken = s.resetTaken := rfl
@[simp] theorem State.setDrain_serialDone (d : Option Drain) : (s.setDrain d).serialDone = s.serialDone := rfl
@[simp] theorem State.setDrain_result (d : Option Drain) : (s.setDrain d).result = s.result := rfl
@[simp] theorem State.setDrain_env (d : Option Drain) : (s.setDrain d).env = s.env := rfl

@[simp] theorem State.setCState_ms (c : CState) : (s.setCState c).ms = s.ms := rfl
@[simp] theorem State.setCState_buf (c : CState) : (s.setCState c).buf = s.buf := rfl
@[simp] theorem State.setCState_wr (c : CState) : (s.setCState c).wr = s.wr := rfl
@[simp] theorem State.setCState_rd (c : CState) : (s.setCState c).rd = s.rd := rfl
@[simp] theorem State.setCState_cfg (c : CState) : (s.setCState c).cfg = s.cfg := rfl
@[simp] theorem State.setCState_serialExists (c : CState) : (s.setCState c).serialExists = s.serialExists := rfl
@[simp] theorem State.setCState_hist (c : CState) : (s.setCState c).hist = s.hist := rfl
@[simp] theorem State.setCState_drain (c : CState) : (s.setCState c).drain = s.drain := rfl
@[simp] theorem State.setCState_cstate (c : CState) : (s.setCState c).cstate = c := rfl
@[simp] theorem State.setCState_init (c : CState) : (s.setCState c).init = s.init := rfl
@[simp] theorem State.setCState_faulted (c : CState) : (s.setCState c).faulted = s.faulted := rfl
@[simp] theorem State.setCState_refused (c : CState) : (s.setCState c).refused = s.refused := rfl
@[simp] theorem State.setCState_resetTaken (c : CState) : (s.setCState c).resetTaken = s.resetTaken := rfl
@[simp] theorem State.setCState_serialDone (c : CState) : (s.setCState c).serialDone = s.serialDone := rfl
@[simp] theorem State.setCState_result (c : CState) : (s.setCState c).result = s.result := rfl
@[simp] theorem State.setCState_env (c : CState) : (s.setCState c).env = s.env := rfl

@[simp] theorem State.setResult_ms (r : Option Result) : (s.setResult r).ms = s.ms := rfl
@[simp] theorem State.setResult_buf (r : Option Result) : (s.setResult r).buf = s.buf := rfl
@[simp] theorem State.setResult_wr (r : Option Result) : (s.setResult r).wr = s.wr := rfl
@[simp] theorem State.setResult_rd (r : Option Result) : (s.setResult r).rd = s.rd := rfl
@[simp] theorem State.setResult_cfg (r : Option Result) : (s.setResult r).cfg = s.cfg := rfl
@[simp] theorem State.setResult_serialExists (r : Option Result) : (s.setResult r).serialExists = s.serialExists := rfl
@[simp] theorem State.setResult_hist (r : Option Result) : (s.setResult r).hist = s.hist := rfl
@[simp] theorem State.setResult_drain (r : Option Result) : (s.setResult r).drain = s.drain := rfl
@[simp] theorem State.setResult_cstate (r : Option Result) : (s.setResult r).cstate = s.cstate := rfl
@[simp] theorem State.setResult_init (r : Option Result) : (s.setResult r).init = s.init := rfl
@[simp] theorem State.setResult_faulted (r : Option Result) : (s.setResult r).faulted = s.faulted := rfl
@[simp] theorem State.setResult_refused (r : Option Result) : (s.setResult r).refused = s.refused := rfl
@[simp] theorem State.setResult_resetTaken (r : Option Result) : (s.setResult r).resetTaken = s.resetTaken := rfl
@[simp] theorem State.setResult_serialDone (r : Option Result) : (s.setResult r).serialDone = s.serialDone := rfl
@[simp] theorem State.setResult_result (r : Option Result) : (s.setResult r).result = r := rfl
@[simp] theorem State.setResult_env (r : Option Result) : (s.setResult r).env = s.env := rfl

@[simp] theorem State.setEnv_ms (e : Env) : (s.setEnv e).ms = s.ms := rfl
@[simp] theorem State.setEnv_buf (e : Env) : (s.setEnv e).buf = s.buf := rfl
@[simp] theorem State.setEnv_wr (e : Env) : (s.setEnv e).wr = s.wr := rfl
@[simp] theorem State.setEnv_rd (e : Env) : (s.setEnv e).rd = s.rd := rfl
@[simp] theorem State.setEnv_cfg (e : Env) : (s.setEnv e).cfg = s.cfg := rfl
@[simp] theorem State.setEnv_serialExists (e : Env) : (s.setEnv e).serialExists = s.serialExists := rfl
@[simp] theorem State.setEnv_hist (e : Env) : (s.setEnv e).hist = s.hist := rfl
@[simp] theorem State.setEnv_drain (e : Env) : (s.setEnv e).drain = s.drain := rfl
@[simp] theorem State.setEnv_cstate (e : Env) : (s.setEnv e).cstate = s.cstate := rfl
@[simp] theorem State.setEnv_init (e : Env) : (s.setEnv e).init = s.init := rfl
@[simp] theorem State.setEnv_faulted (e : Env) : (s.setEnv e).faulted = s.faulted := rfl
@[simp] theorem State.setEnv_refused (e : Env) : (s.setEnv e).refused = s.refused := rfl
@[simp] theorem State.setEnv_resetTaken (e : Env) : (s.setEnv e).resetTaken = s.resetTaken := rfl
@[simp] theorem State.setEnv_serialDone (e : Env) : (s.setEnv e).serialDone = s.serialDone := rfl
@[simp] theorem State.setEnv_result (e : Env) : (s.setEnv e).result = s.result := rfl
@[simp] theorem State.setEnv_env (e : Env) : (s.setEnv e).env = e := rfl

@[simp] theorem State.record_ms (w : PortWrite) : (s.record w).ms = s.ms := rfl
@[simp] theorem State.record_buf (w : PortWrite) : (s.record w).buf = s.buf := rfl
@[simp] theorem State.record_wr (w : PortWrite) : (s.record w).wr = s.wr := rfl
@[simp] theorem State.record_rd (w : PortWrite) : (s.record w).rd = s.rd := rfl
@[simp] theorem State.record_cfg (w : PortWrite) : (s.record w).cfg = s.cfg := rfl
@[simp] theorem State.record_serialExists (w : PortWrite) : (s.record w).serialExists = s.serialExists := rfl
@[simp] theorem State.record_hist (w : PortWrite) : (s.record w).hist = s.hist ++ [w] := rfl
@[simp] theorem State.record_drain (w : PortWrite) : (s.record w).drain = s.drain := rfl
@[simp] theorem State.record_cstate (w : PortWrite) : (s.record w).cstate = s.cstate := rfl
@[simp] theorem State.record_init (w : PortWrite) : (s.record w).init = s.init := rfl
@[simp] theorem State.record_faulted (w : PortWrite) : (s.record w).faulted = s.faulted := rfl
@[simp] theorem State.record_refused (w : PortWrite) : (s.record w).refused = s.refused := rfl
@[simp] theorem State.record_resetTaken (w : PortWrite) : (s.record w).resetTaken = s.resetTaken := rfl
@[simp] theorem State.record_serialDone (w : PortWrite) : (s.record w).serialDone = s.serialDone := rfl
@[simp] theorem State.record_result (w : PortWrite) : (s.record w).result = s.result := rfl
@[simp] theorem State.record_env (w : PortWrite) : (s.record w).env = s.env := rfl

@[simp] theorem State.markReset_ms : (s.markReset).ms = s.ms := rfl
@[simp] theorem State.markReset_buf : (s.markReset).buf = s.buf := rfl
@[simp] theorem State.markReset_wr : (s.markReset).wr = s.wr := rfl
@[simp] theorem State.markReset_rd : (s.markReset).rd = s.rd := rfl
@[simp] theorem State.markReset_cfg : (s.markReset).cfg = s.cfg := rfl
@[simp] theorem State.markReset_serialExists : (s.markReset).serialExists = s.serialExists := rfl
@[simp] theorem State.markReset_hist : (s.markReset).hist = s.hist := rfl
@[simp] theorem State.markReset_drain : (s.markReset).drain = s.drain := rfl
@[simp] theorem State.markReset_cstate : (s.markReset).cstate = s.cstate := rfl
@[simp] theorem State.markReset_init : (s.markReset).init = s.init := rfl
@[simp] theorem State.markReset_faulted : (s.markReset).faulted = s.faulted := rfl
@[simp] theorem State.markReset_refused : (s.markReset).refused = s.refused := rfl
@[simp] theorem State.markReset_resetTaken : (s.markReset).resetTaken = true := rfl
@[simp] theorem State.markReset_serialDone : (s.markReset).serialDone = s.serialDone := rfl
@[simp] theorem State.markReset_result : (s.markReset).result = s.result := rfl
@[simp] theorem State.markReset_env : (s.markReset).env = s.env := rfl

@[simp] theorem State.latchSerial_ms (p : Bool) : (s.latchSerial p).ms = s.ms := rfl
@[simp] theorem State.latchSerial_buf (p : Bool) : (s.latchSerial p).buf = s.buf := rfl
@[simp] theorem State.latchSerial_wr (p : Bool) : (s.latchSerial p).wr = s.wr := rfl
@[simp] theorem State.latchSerial_rd (p : Bool) : (s.latchSerial p).rd = s.rd := rfl
@[simp] theorem State.latchSerial_cfg (p : Bool) : (s.latchSerial p).cfg = s.cfg := rfl
@[simp] theorem State.latchSerial_serialExists (p : Bool) : (s.latchSerial p).serialExists = p := rfl
@[simp] theorem State.latchSerial_hist (p : Bool) : (s.latchSerial p).hist = s.hist := rfl
@[simp] theorem State.latchSerial_drain (p : Bool) : (s.latchSerial p).drain = s.drain := rfl
@[simp] theorem State.latchSerial_cstate (p : Bool) : (s.latchSerial p).cstate = s.cstate := rfl
@[simp] theorem State.latchSerial_init (p : Bool) : (s.latchSerial p).init = s.init := rfl
@[simp] theorem State.latchSerial_faulted (p : Bool) : (s.latchSerial p).faulted = s.faulted := rfl
@[simp] theorem State.latchSerial_refused (p : Bool) : (s.latchSerial p).refused = s.refused := rfl
@[simp] theorem State.latchSerial_resetTaken (p : Bool) : (s.latchSerial p).resetTaken = s.resetTaken := rfl
@[simp] theorem State.latchSerial_serialDone (p : Bool) : (s.latchSerial p).serialDone = true := rfl
@[simp] theorem State.latchSerial_result (p : Bool) : (s.latchSerial p).result = s.result := rfl
@[simp] theorem State.latchSerial_env (p : Bool) : (s.latchSerial p).env = s.env := rfl

end Sys2Proof.Machine
end

