-- ==== Sys2Proof/Laws/Memory.lean ====
section
/-!
SUPPORT. The laws of the ring storage: a read after a write, and the canonical form that every operation keeps.
-/

namespace Sys2Proof.Machine

/-- A read after a write, in any list of slots. -/
theorem lookup_insert (m : Memory) (x y : Nat) (w : Byte) :
    Memory.lookup (Memory.insert m x w) y = if y = x then some w else Memory.lookup m y := by
  induction m with
  | nil => simp [Memory.insert, Memory.lookup]
  | cons c m ih =>
    obtain ⟨a, v⟩ := c
    simp only [Memory.insert]
    by_cases h1 : x < a
    · simp [h1, Memory.lookup]
    · by_cases h2 : x = a
      · subst h2
        by_cases h3 : y = x <;> simp [Memory.lookup, h3]
      · simp only [h1, h2, if_false, Memory.lookup, ih]
        by_cases h3 : y = a
        · subst h3
          simp [Ne.symm h2]
        · simp [h3]

theorem wfFrom_mono (m : Memory) (lo hi : Nat) (hle : lo ≤ hi) (h : Memory.wfFrom hi m = true) :
    Memory.wfFrom lo m = true := by
  cases m with
  | nil => rfl
  | cons c m =>
    simp only [Memory.wfFrom, Bool.and_eq_true, decide_eq_true_eq] at h ⊢
    exact ⟨⟨by omega, h.1.2⟩, h.2⟩

theorem wfFrom_insert (m : Memory) (x lo : Nat) (w : Byte) (hx : x < ringCap) (hlo : lo ≤ x)
    (h : Memory.wfFrom lo m = true) : Memory.wfFrom lo (Memory.insert m x w) = true := by
  induction m generalizing lo with
  | nil => simp [Memory.insert, Memory.wfFrom, hx, hlo]
  | cons c m ih =>
    obtain ⟨a, v⟩ := c
    simp only [Memory.wfFrom, Bool.and_eq_true, decide_eq_true_eq] at h
    obtain ⟨⟨h1, h2⟩, h3⟩ := h
    simp only [Memory.insert]
    split
    · next hlt =>
      simp only [Memory.wfFrom, Bool.and_eq_true, decide_eq_true_eq]
      exact ⟨⟨hlo, hx⟩, ⟨hlt, h2⟩, h3⟩
    · split
      · next heq =>
        subst heq
        simp only [Memory.wfFrom, Bool.and_eq_true, decide_eq_true_eq]
        exact ⟨⟨hlo, hx⟩, h3⟩
      · next hlt hne =>
        simp only [Memory.wfFrom, Bool.and_eq_true, decide_eq_true_eq]
        exact ⟨⟨h1, h2⟩, ih (a + 1) (by omega) h3⟩

/-- Every write keeps the canonical form. -/
theorem wf_insert (m : Memory) (a : Fin ringCap) (v : Byte) (h : Memory.wf m = true) :
    Memory.wf (Memory.insert m a v) = true := wfFrom_insert m a 0 v a.isLt (Nat.zero_le _) h

/-- The state after reset lists no slot, so its storage is canonical. -/
theorem wf_reset : Memory.wf State.reset.buf = true := rfl

/-- A slot reads as the byte last written to it, and a write leaves every other slot alone (R44). -/
theorem memRead_memWrite (s : State) (a b : Fin ringCap) (v : Byte) :
    memRead (memWrite s a v) b = if b = a then v else memRead s b := by
  simp only [memRead, memWrite, State.setBuf_buf, lookup_insert, Fin.val_inj]
  split <;> simp

end Sys2Proof.Machine
end

