-- ==== Sys2Proof/Laws/Ops.lean ====
section
/-!
SUPPORT. One lemma for each shared operation that says what it can do; proofs cite these instead of unfolding it.
-/

namespace Sys2Proof.Machine

/-! The checks before an operation. -/

theorem checked_eq (s : State) (k) (h : unmarked s = true) (hc : wfConfig s.cfg = true) : checked s k = k := by
  simp [unmarked] at h
  simp [checked, h, hc]

theorem operation_eq (i : Instr) (s : State) (k) (h : ready s = true) : operation i s k = k := by
  simp only [ready, Bool.and_eq_true] at h
  simp [operation, checked_eq s _ h.1.1 h.1.2, h.2]

/-- An answer that is a next state comes from an unmarked state with a well-formed configuration. -/
theorem checked_next {s t : State} {k} (h : checked s k = .next t) :
    unmarked s = true ∧ wfConfig s.cfg = true ∧ k = .next t := by
  revert h
  simp only [checked, unmarked]
  repeat' split
  all_goals simp_all

theorem operation_next {i : Instr} {s t : State} {k} (h : operation i s k = .next t) :
    ready s = true ∧ k = .next t := by
  obtain ⟨hu, hc, hk⟩ := checked_next h
  revert hk
  split
  · next hi => exact fun hk => ⟨by simp [ready, hu, hc, hi], hk⟩
  · simp

/-! The decoder. -/

/-- R88, R136: exactly one event, and either the outcome SideEffect or the mark. -/
theorem resetWrite_cases (s : State) :
    ∃ e, resetWrite s = (some .sideEffect, (s.record (resetEvent s.cfg)).setEnv e)
      ∨ resetWrite s = (none, ((s.record (resetEvent s.cfg)).setEnv e).markReset) := by
  refine ⟨s.env.takeResponse.2, ?_⟩
  unfold resetWrite answerReset
  split
  · exact .inl rfl
  · exact .inr rfl

/-- R86 to R89: a press either delivers its character or fires the reset write. -/
theorem press_cases (idx : Byte) (s : State) :
    press idx s = (some (outcomeOf (pressedChar s idx)), s.setMs (pressedMs s idx))
      ∨ press idx s = resetWrite (s.setMs (pressedMs s idx)) := by
  unfold press
  split
  · exact .inr rfl
  · exact .inl rfl

/-- A decoding writes `ms`, and on a reset write `hist`, the mark and the response's draw; nothing else (R91 item 8). -/
theorem press_frame (idx : Byte) (s : State) : (press idx s).2 =
    { s with ms := (press idx s).2.ms, hist := (press idx s).2.hist, env := (press idx s).2.env,
             resetTaken := (press idx s).2.resetTaken } := by
  rcases press_cases idx s with h | h
  · rw [h]
    rfl
  · obtain ⟨e, h' | h'⟩ := resetWrite_cases (s.setMs (pressedMs s idx)) <;> rw [h, h'] <;> rfl

/-- The steps of DECODE by the byte's class (R80, R56). -/
theorem decodeByte_cases (b : Byte) (s : State) :
    decodeByte b s = escape s
      ∨ decodeByte b s = release (releaseIndex s.ms b) s
      ∨ decodeByte b s = press (pressIndex s.ms b) (s.setMs (clearEsc s.ms))
      ∨ decodeByte b s = press (pressIndex s.ms b) s := by
  unfold decodeByte
  split
  · exact .inl rfl
  · split
    · exact .inr (.inl rfl)
    · split
      · exact .inr (.inr (.inl rfl))
      · exact .inr (.inr (.inr rfl))

theorem decodeByte_frame (b : Byte) (s : State) : (decodeByte b s).2 =
    { s with ms := (decodeByte b s).2.ms, hist := (decodeByte b s).2.hist, env := (decodeByte b s).2.env,
             resetTaken := (decodeByte b s).2.resetTaken } := by
  rcases decodeByte_cases b s with h | h | h | h <;> rw [h]
  · rfl
  · rfl
  · rw [press_frame]
    rfl
  · exact press_frame _ _

/-- Decoding bytes never writes the configuration (R45). -/
theorem foldl_decodeByte_cfg (bs : List Byte) (s : State) :
    (bs.foldl (fun s b => (decodeByte b s).2) s).cfg = s.cfg := by
  induction bs generalizing s with
  | nil => rfl
  | cons b bs ih => rw [List.foldl_cons, ih, decodeByte_frame]

theorem decodedFromReset_cfg (c : Config) (bs : List Byte) : (decodedFromReset c bs).cfg = c :=
  foldl_decodeByte_cfg bs _

/-- `finish` writes the result only. -/
theorem finish_eq (r : Option DecodeOutcome × State) :
    finish r = r.2 ∨ ∃ o, r.1 = some o ∧ finish r = r.2.setResult (some (.outcome o)) := by
  unfold finish
  split
  · next o h => exact .inr ⟨o, h, rfl⟩
  · exact .inl rfl

/-- R89: no outcome is Char(0). -/
theorem outcomeOf_ne_zero (c : Byte) : outcomeOf c ≠ .char 0 := by
  unfold outcomeOf
  split
  · simp
  · simpa using ‹_›

theorem press_ne_zero (idx : Byte) (s : State) : (press idx s).1 ≠ some (.char 0) := by
  rcases press_cases idx s with h | h
  · simpa [h] using outcomeOf_ne_zero _
  · obtain ⟨e, h' | h'⟩ := resetWrite_cases (s.setMs (pressedMs s idx)) <;> simp [h, h']

theorem decodeByte_ne_zero (b : Byte) (s : State) : (decodeByte b s).1 ≠ some (.char 0) := by
  rcases decodeByte_cases b s with h | h | h | h <;> rw [h]
  · simp [escape]
  · simp [release]
  · exact press_ne_zero _ _
  · exact press_ne_zero _ _

/-- A decoding appends at most the reset write (R88). -/
theorem press_hist (idx : Byte) (s : State) : (press idx s).2.hist = s.hist
    ∨ (press idx s).2.hist = s.hist ++ [resetEvent s.cfg] := by
  rcases press_cases idx s with h | h
  · exact .inl (by simp [h])
  · obtain ⟨e, h' | h'⟩ := resetWrite_cases (s.setMs (pressedMs s idx)) <;> exact .inr (by simp [h, h'])

theorem decodeByte_hist (b : Byte) (s : State) : (decodeByte b s).2.hist = s.hist
    ∨ (decodeByte b s).2.hist = s.hist ++ [resetEvent s.cfg] := by
  rcases decodeByte_cases b s with h | h | h | h <;> rw [h]
  · exact .inl rfl
  · exact .inl rfl
  · exact press_hist _ _
  · exact press_hist _ _

/-! The sources. -/

theorem kbdSource_cases (s : State) :
    (∃ e, kbdSource s = (some .noEvent, s.setEnv e)) ∨ ∃ b e, kbdSource s = decodeByte b (s.setEnv e) := by
  unfold kbdSource
  simp only
  split
  · exact .inl ⟨_, rfl⟩
  · exact .inr ⟨_, _, rfl⟩

theorem serialSource_cases (s : State) :
    ∃ e, serialSource s = (some .noEvent, s.setEnv e) ∨ ∃ v, serialSource s = (some (outcomeOf v), s.setEnv e) := by
  unfold serialSource
  simp only
  split
  · split
    · exact ⟨_, .inr ⟨_, rfl⟩⟩
    · exact ⟨_, .inl rfl⟩
  · exact ⟨s.env, .inl rfl⟩

/-- What a source can do (R90, R113). -/
theorem querySource_cases (src : Source) (s : State) :
    (∃ e, querySource src s = (some .noEvent, s.setEnv e))
      ∨ (∃ b e, querySource src s = decodeByte b (s.setEnv e))
      ∨ ∃ v e, querySource src s = (some (outcomeOf v), s.setEnv e) := by
  cases src with
  | kbd => exact (kbdSource_cases s).imp_right .inl
  | ser =>
    obtain ⟨e, h | ⟨v, h⟩⟩ := serialSource_cases s
    · exact .inl ⟨e, h⟩
    · exact .inr (.inr ⟨v, e, h⟩)

theorem querySource_frame (src : Source) (s : State) : (querySource src s).2 =
    { s with ms := (querySource src s).2.ms, hist := (querySource src s).2.hist,
             env := (querySource src s).2.env, resetTaken := (querySource src s).2.resetTaken } := by
  rcases querySource_cases src s with ⟨e, h⟩ | ⟨b, e, h⟩ | ⟨v, e, h⟩ <;> rw [h]
  · rfl
  · rw [decodeByte_frame]
    rfl
  · rfl

theorem querySource_ne_zero (src : Source) (s : State) : (querySource src s).1 ≠ some (.char 0) := by
  rcases querySource_cases src s with ⟨e, h⟩ | ⟨b, e, h⟩ | ⟨v, e, h⟩ <;> rw [h]
  · simp
  · exact decodeByte_ne_zero _ _
  · simpa using outcomeOf_ne_zero v

theorem querySource_hist (src : Source) (s : State) : (querySource src s).2.hist = s.hist
    ∨ (querySource src s).2.hist = s.hist ++ [resetEvent s.cfg] := by
  rcases querySource_cases src s with ⟨e, h⟩ | ⟨b, e, h⟩ | ⟨v, e, h⟩ <;> rw [h]
  · exact .inl rfl
  · exact decodeByte_hist _ _
  · exact .inl rfl

/-! The ring buffer. -/

/-- R100: a push writes one slot and the write cursor. -/
theorem rbPush_eq (v : Byte) (s : State) :
    rbPush v s = { s with buf := Memory.insert s.buf (slotOf s.wr) v, wr := s.wr + 1 } := rfl

/-- R101: a pop writes at most the read cursor. -/
theorem rbPop_cases (s : State) :
    (s.wr = s.rd ∧ rbPop s = (none, s))
      ∨ (s.wr ≠ s.rd ∧ rbPop s = (some (memRead s (slotOf (caughtUp s))), s.setRd (caughtUp s + 1))) := by
  unfold rbPop
  split
  · next h => exact .inl ⟨h, rfl⟩
  · next h => exact .inr ⟨h, rfl⟩

theorem slotOf_val (c : BitVec 32) : (slotOf c : Nat) = c.toNat % 512 := rfl

/-! The drain and the poll. -/

/-- A drain's entry answers the drain's record, holds, or faults (R134). -/
theorem drainEnter_cases (ctx : Ctx) (src : Source) (s : State) :
    (s.drain = none ∧ drainEnter ctx src s = .next (s.setDrain (some ⟨ctx, src⟩)))
      ∨ (s.drain.isSome ∧ s.cfg.exclusion = .masked ∧ drainEnter ctx src s = .next s)
      ∨ ∃ d, s.drain = some d ∧ s.cfg.exclusion = .unprotected
          ∧ drainEnter ctx src s = .fault (.concurrentDrain d.owner ctx) := by
  unfold drainEnter
  cases hd : s.drain with
  | none => simp
  | some d => cases hx : s.cfg.exclusion <;> simp

/-- What an iteration makes of the source's answer (R112, R114). -/
theorem drainTake_cases (owner : Ctx) (r : Option DecodeOutcome × State) :
    (r.1 = some .noEvent ∧ drainTake owner r = drainExit owner r.2)
      ∨ (∃ c, r.1 = some (.char c) ∧ drainTake owner r = rbPush c r.2)
      ∨ ((r.1 = none ∨ r.1 = some .ignored ∨ r.1 = some .sideEffect) ∧ drainTake owner r = r.2) := by
  unfold drainTake
  split <;> simp_all

theorem getPop_cases (s : State) :
    (∃ v, (rbPop s).1 = some v ∧ v ≠ 0
        ∧ getPop s = ((rbPop s).2.setCState .idle).setResult (some (.gotChar v)))
      ∨ (((rbPop s).1 = none ∨ (rbPop s).1 = some 0) ∧ getPop s = getStart (rbPop s).2) := by
  unfold getPop
  split
  · next v hv =>
    split
    · next h0 => exact .inr ⟨.inr (by rw [hv, h0]), rfl⟩
    · next h0 => exact .inl ⟨v, hv, h0, rfl⟩
  · next hv => exact .inr ⟨.inl hv, rfl⟩

/-! The step. -/

/-- What a step that answers a next state can be. -/
theorem step_next {s t : State} (h : step s = .next t) :
    unmarked s = true ∧ wfConfig s.cfg = true ∧ (plan s).run = .next t := checked_next h

/-- What the running context can do: the drain's iteration, an operation of the idle consumer, or its poll (R114, R118, R120). -/
theorem contextStep_next {s t : State} (h : (contextStep s).run = .next t) :
    (∃ d, s.drain = some d ∧ s.init = true ∧ t = drainStep d s)
      ∨ (s.drain = none ∧ s.cstate = .idle ∧
          ((s.env.prog = [] ∧ t = s)
            ∨ ∃ x rest i, s.env.prog = x :: rest ∧ decodeInput (escPending s.ms) x = .ok i
                ∧ exec i (s.setEnv { s.env with prog := rest }) = .next t))
      ∨ (s.drain = none ∧ s.init = true ∧ ∃ k o, (s.cstate = .poll k o ∨ s.cstate = .get k o) ∧
          ((k = 0 ∧ t = s.setDrain (some ⟨.consumer, o.first⟩))
            ∨ (k = 1 ∧ t = s.setDrain (some ⟨.consumer, o.second⟩))))
      ∨ (s.drain = none ∧ s.init = true ∧ ∃ k o, k ≠ 0 ∧ k ≠ 1 ∧
          ((s.cstate = .poll k o ∧ t = pollPop s) ∨ (s.cstate = .get k o ∧ t = getPop s))) := by
  unfold contextStep at h
  split at h
  · next d hd =>
    simp only [Plan.run] at h
    split at h
    · next hi => exact .inl ⟨d, hd, hi, by simpa using h.symm⟩
    · simp at h
  · next hd =>
    split at h
    · next hc =>
      refine .inr (.inl ⟨hd, hc, ?_⟩)
      unfold fetch at h
      split at h
      · next hp => exact .inl ⟨hp, by simpa [Plan.run] using h.symm⟩
      · next x rest hp =>
        split at h
        · next i hi => exact .inr ⟨x, rest, i, hp, hi, h⟩
        · simp [Plan.run] at h
    all_goals
      next k o hc =>
      split at h
      · next hk =>
        refine .inr (.inr (.inl ?_))
        simp only [Plan.run, pollEnter, drainEnter, hd] at h
        split at h
        · next hi => exact ⟨hd, hi, k, o, by simp [hc], .inl ⟨hk, by simpa using h.symm⟩⟩
        · simp at h
      · split at h
        · next hk =>
          refine .inr (.inr (.inl ?_))
          simp only [Plan.run, pollEnter, drainEnter, hd] at h
          split at h
          · next hi => exact ⟨hd, hi, k, o, by simp [hc], .inr ⟨hk, by simpa using h.symm⟩⟩
          · simp at h
        · next h0 h1 =>
          refine .inr (.inr (.inr ?_))
          simp only [Plan.run, popStep] at h
          split at h
          · next hi =>
            refine ⟨hd, hi, k, o, h0, h1, ?_⟩
            simp only [Host.Outcome.next.injEq] at h
            simp [hc, h]
          · simp at h

/-- What a turn can do: the running context's step, an admitted interrupt, serial init, or bytes joining a device. -/
theorem planTurn_next {u : Turn} {s t : State} (h : (planTurn u s).run = .next t) :
    (contextStep s).run = .next t
      ∨ (∃ x, u = .irq x ∧ admitsIrq x s = true ∧ exec (irqInstr x) s = .next t)
      ∨ (∃ p, u = .serialInit p ∧ admitsSerialInit s = true ∧ t = s.latchSerial p)
      ∨ ∃ e, t = s.setEnv e := by
  cases u with
  | go => exact .inl h
  | irq x =>
    simp only [planTurn] at h
    split at h
    · next ha => exact .inr (.inl ⟨x, rfl, ha, h⟩)
    · exact .inl h
  | serialInit p =>
    simp only [planTurn] at h
    split at h
    · next ha => exact .inr (.inr (.inl ⟨p, rfl, ha, by simpa [Plan.run] using h.symm⟩))
    · exact .inl h
  | kbdBytes bs => exact .inr (.inr (.inr ⟨_, by simpa [planTurn, Plan.run] using h.symm⟩))
  | serBytes bs => exact .inr (.inr (.inr ⟨_, by simpa [planTurn, Plan.run] using h.symm⟩))
  | configChange => simp [planTurn, Plan.run] at h

end Sys2Proof.Machine
end

