-- ==== Sys2Proof/Laws/Exec.lean ====
section
/-!
SUPPORT. What an operation that answers a next state can be, and what a step can do to the ring buffer: one inversion
lemma each, from which the invariants follow.
-/

namespace Sys2Proof.Machine

/-- What every decoder operation and every source can do: write `ms`, take draws, append at most the reset write, and
set `reset_taken` only with that write and no outcome, which it always does when there is none (R88, R91, R136). -/
structure Decodes (s : State) (r : Option DecodeOutcome × State) : Prop where
  frame : r.2 = { s with ms := r.2.ms, hist := r.2.hist, env := r.2.env, resetTaken := r.2.resetTaken }
  not_zero : r.1 ≠ some (.char 0)
  hist : r.2.hist = s.hist ∨ r.2.hist = s.hist ++ [resetEvent s.cfg]
  taken : r.2.resetTaken = s.resetTaken
    ∨ (r.2.resetTaken = true ∧ r.1 = none ∧ r.2.hist = s.hist ++ [resetEvent s.cfg])
  prog : r.2.env.prog = s.env.prog
  turns : r.2.env.turns = s.env.turns
  ends : r.1 = none → r.2.resetTaken = true

theorem takeResponse_prog (e : Env) : e.takeResponse.2.prog = e.prog := by unfold Env.takeResponse; split <;> rfl
theorem takeResponse_turns (e : Env) : e.takeResponse.2.turns = e.turns := by unfold Env.takeResponse; split <;> rfl
theorem readKbdStatus_prog (e : Env) (m : Byte) : (e.readKbdStatus m).2.prog = e.prog := by
  unfold Env.readKbdStatus; split <;> rfl
theorem readKbdStatus_turns (e : Env) (m : Byte) : (e.readKbdStatus m).2.turns = e.turns := by
  unfold Env.readKbdStatus; split <;> rfl
theorem readKbdData_prog (e : Env) : e.readKbdData.2.prog = e.prog := by unfold Env.readKbdData; split <;> rfl
theorem readKbdData_turns (e : Env) : e.readKbdData.2.turns = e.turns := by unfold Env.readKbdData; split <;> rfl
theorem readSerReady_prog (e : Env) : e.readSerReady.2.prog = e.prog := by unfold Env.readSerReady; split <;> rfl
theorem readSerReady_turns (e : Env) : e.readSerReady.2.turns = e.turns := by unfold Env.readSerReady; split <;> rfl
theorem readSerData_prog (e : Env) : e.readSerData.2.prog = e.prog := by unfold Env.readSerData; split <;> rfl
theorem readSerData_turns (e : Env) : e.readSerData.2.turns = e.turns := by unfold Env.readSerData; split <;> rfl
theorem takeOrder_prog (e : Env) : e.takeOrder.2.prog = e.prog := by unfold Env.takeOrder; split <;> rfl
theorem takeTurn_prog (e : Env) : e.takeTurn.2.prog = e.prog := by unfold Env.takeTurn; split <;> rfl

/-- Serial init is a turn only where the schedule lists it (log 9). -/
theorem takeTurn_serialInit {e : Env} {p : Bool} (h : e.takeTurn.1 = .serialInit p) :
    e.turns.head? = some (.serialInit p) := by
  unfold Env.takeTurn at h
  split at h
  · next ht => simpa [ht] using h
  · simp only at h
    split at h <;> cases h

theorem decodes_resetWrite (s : State) : Decodes s (resetWrite s) := by
  unfold resetWrite answerReset
  split
  · exact ⟨rfl, by simp, .inr rfl, .inl rfl, takeResponse_prog _, takeResponse_turns _, by simp⟩
  · exact ⟨rfl, by simp, .inr rfl, .inr ⟨rfl, rfl, rfl⟩, takeResponse_prog _, takeResponse_turns _, fun _ => rfl⟩

/-- A write of `ms` before a decoder operation is a write of that operation. -/
theorem Decodes.of_setMs {s : State} {m : BitVec 7} {r} (h : Decodes (s.setMs m) r) : Decodes s r :=
  ⟨by rw [h.frame]; rfl, h.not_zero, h.hist, h.taken, h.prog, h.turns, h.ends⟩

/-- A draw before a decoder operation is a draw of that operation. -/
theorem Decodes.of_setEnv {s : State} {e : Env} {r} (hp : e.prog = s.env.prog) (ht : e.turns = s.env.turns)
    (h : Decodes (s.setEnv e) r) : Decodes s r :=
  ⟨by rw [h.frame]; rfl, h.not_zero, h.hist, h.taken, h.prog.trans hp, h.turns.trans ht, h.ends⟩

theorem decodes_press (idx : Byte) (s : State) : Decodes s (press idx s) := by
  rcases press_cases idx s with h | h <;> rw [h]
  · exact ⟨rfl, by simpa using outcomeOf_ne_zero _, .inl rfl, .inl rfl, rfl, rfl, by simp⟩
  · exact (decodes_resetWrite _).of_setMs

theorem decodes_release (idx : Byte) (s : State) : Decodes s (release idx s) :=
  ⟨rfl, by simp [release], .inl rfl, .inl rfl, rfl, rfl, by simp [release]⟩

theorem decodes_escape (s : State) : Decodes s (escape s) :=
  ⟨rfl, by simp [escape], .inl rfl, .inl rfl, rfl, rfl, by simp [escape]⟩

theorem decodes_decodeByte (b : Byte) (s : State) : Decodes s (decodeByte b s) := by
  rcases decodeByte_cases b s with h | h | h | h <;> rw [h]
  · exact decodes_escape s
  · exact decodes_release _ s
  · exact (decodes_press _ _).of_setMs
  · exact decodes_press _ s

theorem decodes_kbdSource (s : State) : Decodes s (kbdSource s) := by
  unfold kbdSource
  simp only
  split
  · exact ⟨rfl, by simp, .inl rfl, .inl rfl, readKbdStatus_prog _ _, readKbdStatus_turns _ _, by simp⟩
  · exact ((decodes_decodeByte _ _).of_setEnv (readKbdData_prog _) (readKbdData_turns _)).of_setEnv
      (readKbdStatus_prog _ _) (readKbdStatus_turns _ _)

theorem decodes_serialSource (s : State) : Decodes s (serialSource s) := by
  unfold serialSource
  simp only
  split
  · split
    · exact ⟨rfl, by simpa using outcomeOf_ne_zero _, .inl rfl, .inl rfl,
        (readSerData_prog _).trans (readSerReady_prog _), (readSerData_turns _).trans (readSerReady_turns _), by simp⟩
    · exact ⟨rfl, by simp, .inl rfl, .inl rfl, readSerReady_prog _, readSerReady_turns _, by simp⟩
  · exact ⟨rfl, by simp, .inl rfl, .inl rfl, rfl, rfl, by simp⟩

theorem decodes_querySource (src : Source) (s : State) : Decodes s (querySource src s) := by
  cases src
  · exact decodes_kbdSource s
  · exact decodes_serialSource s

/-- What an operation that answers a next state can be. -/
theorem exec_next {i : Instr} {s t : State} (h : exec i s = .next t) :
    (i = .reset ∧ s.init = false ∧ t = resetState s)
      ∨ ready s = true ∧
        ((∃ r, Decodes s r ∧ t = finish r)
          ∨ (∃ v, i = .rbPush v ∧ (t = s ∨ t = rbPush v s))
          ∨ (i = .rbPop ∧ t = (rbPop s).2.setResult (some (.popped (rbPop s).1)))
          ∨ (∃ ctx src, (ctx = .consumer ∨ (ctx, src) = (.kbdIrq, .kbd) ∨ (ctx, src) = (.serIrq, .ser))
              ∧ drainEnter ctx src s = .next t)
          ∨ (i = .pollChar ∧ t = pollStart s) ∨ (i = .getChar ∧ t = getStart s)) := by
  cases i
  case reset =>
    obtain ⟨_, _, hk⟩ := checked_next h
    cases hi : s.init <;> simp [hi] at hk
    exact .inl ⟨rfl, rfl, hk.symm⟩
  all_goals
    obtain ⟨hr, hk⟩ := operation_next h
    refine .inr ⟨hr, ?_⟩
  case scEscape => exact .inl ⟨_, decodes_escape s, by simpa using hk.symm⟩
  case scRelease => exact .inl ⟨_, decodes_release _ s, by simpa using hk.symm⟩
  case scReleaseExt => exact .inl ⟨_, decodes_release _ s, by simpa using hk.symm⟩
  case scPress => exact .inl ⟨_, decodes_press _ s, by simpa using hk.symm⟩
  case scPressExt => exact .inl ⟨_, (decodes_press _ _).of_setMs, by simpa using hk.symm⟩
  case decode => exact .inl ⟨_, decodes_decodeByte _ s, by simpa using hk.symm⟩
  case kbdSource => exact .inl ⟨_, decodes_kbdSource s, by simpa using hk.symm⟩
  case serialSource => exact .inl ⟨_, decodes_serialSource s, by simpa using hk.symm⟩
  case rbPush v =>
    refine .inr (.inl ⟨v, rfl, ?_⟩)
    simp only [Host.Outcome.next.injEq] at hk
    split at hk
    · exact .inl hk.symm
    · exact .inr hk.symm
  case rbPop => exact .inr (.inr (.inl ⟨rfl, by simpa using hk.symm⟩))
  case drainKbd => exact .inr (.inr (.inr (.inl ⟨.consumer, .kbd, .inl rfl, hk⟩)))
  case drainSer => exact .inr (.inr (.inr (.inl ⟨.consumer, .ser, .inl rfl, hk⟩)))
  case kbdIntr => exact .inr (.inr (.inr (.inl ⟨.kbdIrq, .kbd, .inr (.inl rfl), hk⟩)))
  case serialIntr => exact .inr (.inr (.inr (.inl ⟨.serIrq, .ser, .inr (.inr rfl), hk⟩)))
  case pollChar => exact .inr (.inr (.inr (.inr (.inl ⟨rfl, by simpa using hk.symm⟩))))
  case getChar => exact .inr (.inr (.inr (.inr (.inr ⟨rfl, by simpa using hk.symm⟩))))

/-- What a step can do to the ring buffer: nothing, one push, one pop, or RESET. -/
inductive RingEffect (s t : State) : Prop
  | same (buf : t.buf = s.buf) (wr : t.wr = s.wr) (rd : t.rd = s.rd)
  | push (v : Byte) (buf : t.buf = Memory.insert s.buf (slotOf s.wr) v) (wr : t.wr = s.wr + 1) (rd : t.rd = s.rd)
  | pop (unread : s.wr ≠ s.rd) (buf : t.buf = s.buf) (wr : t.wr = s.wr) (rd : t.rd = caughtUp s + 1)
  | reset (buf : t.buf = []) (wr : t.wr = 0) (rd : t.rd = 0)

theorem finish_ring (r : Option DecodeOutcome × State) :
    (finish r).buf = r.2.buf ∧ (finish r).wr = r.2.wr ∧ (finish r).rd = r.2.rd := by
  rcases finish_eq r with h | ⟨o, _, h⟩ <;> simp [h]

theorem Decodes.ring {s : State} {r} (h : Decodes s r) : r.2.buf = s.buf ∧ r.2.wr = s.wr ∧ r.2.rd = s.rd := by
  rw [h.frame]
  exact ⟨rfl, rfl, rfl⟩

theorem exec_ring {i : Instr} {s t : State} (h : exec i s = .next t) : RingEffect s t := by
  rcases exec_next h with ⟨_, _, rfl⟩ | ⟨_, h⟩
  · exact .reset rfl rfl rfl
  · rcases h with ⟨r, hr, rfl⟩ | ⟨v, _, rfl | rfl⟩ | ⟨_, rfl⟩ | ⟨ctx, src, _, h⟩ | ⟨_, rfl⟩ | ⟨_, rfl⟩
    · obtain ⟨h1, h2, h3⟩ := finish_ring r
      obtain ⟨h4, h5, h6⟩ := hr.ring
      exact .same (h1.trans h4) (h2.trans h5) (h3.trans h6)
    · exact .same rfl rfl rfl
    · exact .push v rfl rfl rfl
    · rcases rbPop_cases s with ⟨he, h⟩ | ⟨he, h⟩ <;> rw [h]
      · exact .same rfl rfl rfl
      · exact .pop he rfl rfl rfl
    · rcases drainEnter_cases ctx src s with ⟨_, h'⟩ | ⟨_, _, h'⟩ | ⟨d, _, _, h'⟩ <;> rw [h'] at h
      · obtain rfl := Host.Outcome.next.inj h
        exact .same rfl rfl rfl
      · obtain rfl := Host.Outcome.next.inj h
        exact .same rfl rfl rfl
      · simp at h
    · exact .same rfl rfl rfl
    · exact .same rfl rfl rfl

theorem drainStep_ring (d : Drain) (s : State) : RingEffect s (drainStep d s) := by
  obtain ⟨h1, h2, h3⟩ := (decodes_querySource d.src s).ring
  unfold drainStep
  rcases drainTake_cases d.owner (querySource d.src s) with ⟨_, h'⟩ | ⟨c, _, h'⟩ | ⟨_, h'⟩ <;> rw [h']
  · unfold drainExit
    split <;> exact .same h1 h2 h3
  · exact .push c (by simp [rbPush_eq, h1, h2]) (by simp [rbPush_eq, h2]) (by simp [rbPush_eq, h3])
  · exact .same h1 h2 h3

/-- A pop writes at most the read cursor (R101). -/
theorem rbPop_frame (s : State) : (rbPop s).2 = { s with rd := (rbPop s).2.rd } := by
  rcases rbPop_cases s with ⟨_, h⟩ | ⟨_, h⟩
  · rw [h]
  · rw [h]; rfl

theorem finish_frame (r : Option DecodeOutcome × State) : finish r = { r.2 with result := (finish r).result } := by
  unfold finish
  split <;> rfl

theorem joinKbd_prog (e : Env) (bs : List Byte) : (e.joinKbd bs).prog = e.prog := by unfold Env.joinKbd; split <;> rfl
theorem joinSer_prog (e : Env) (bs : List Byte) : (e.joinSer bs).prog = e.prog := by unfold Env.joinSer; split <;> rfl

/-- The step from `s` to `t` by the agent that moved (R49, R110), with `e` the environment after the turn: the drain in
progress, the idle consumer's operation, the consumer's entry of a drain and its pop inside a poll, an admitted interrupt,
serial init, or the environment alone. -/
def StepCase (s t : State) (e : Env) : Prop :=
  (∃ d, s.drain = some d ∧ s.init = true ∧ t = drainStep d (s.setEnv e))
    ∨ (∃ i e', s.drain = none ∧ s.cstate = .idle ∧ exec i (s.setEnv e') = .next t)
    ∨ (∃ k o src, s.drain = none ∧ (s.cstate = .poll k o ∨ s.cstate = .get k o)
        ∧ ((k = 0 ∧ src = o.first) ∨ (k = 1 ∧ src = o.second))
        ∧ t = (s.setEnv e).setDrain (some ⟨.consumer, src⟩))
    ∨ (s.drain = none ∧ s.cstate ≠ .idle ∧ (t = pollPop (s.setEnv e) ∨ t = getPop (s.setEnv e)))
    ∨ (∃ x, admitsIrq x s = true ∧ exec (irqInstr x) (s.setEnv e) = .next t)
    ∨ (∃ p, s.env.turns.head? = some (.serialInit p) ∧ admitsSerialInit s = true ∧ t = (s.setEnv e).latchSerial p)
    ∨ t = s.setEnv e

/-- Every step that answers a next state is one of these. -/
theorem step_cases {s t : State} (h : step s = .next t) :
    unmarked s = true ∧ ∃ e : Env, e.prog = s.env.prog ∧ StepCase s t e := by
  obtain ⟨hu, _, h⟩ := step_next h
  refine ⟨hu, ?_⟩
  have ofContext : (contextStep (s.setEnv s.env.takeTurn.2)).run = .next t →
      ∃ e : Env, e.prog = s.env.prog ∧ StepCase s t e := by
    intro h
    refine ⟨s.env.takeTurn.2, takeTurn_prog _, ?_⟩
    rcases contextStep_next h with ⟨d, hd, hi, rfl⟩ | ⟨hd, hc, ⟨_, rfl⟩ | ⟨x, rest, i, _, _, h⟩⟩
      | ⟨hd, _, k, o, hc, ⟨hk, rfl⟩ | ⟨hk, rfl⟩⟩ | ⟨hd, _, k, o, _, _, ⟨hc, rfl⟩ | ⟨hc, rfl⟩⟩
    · exact .inl ⟨d, hd, hi, rfl⟩
    · simp [StepCase]
    · exact .inr (.inl ⟨i, _, hd, hc, h⟩)
    · exact .inr (.inr (.inl ⟨k, o, _, hd, hc, .inl ⟨hk, rfl⟩, rfl⟩))
    · exact .inr (.inr (.inl ⟨k, o, _, hd, hc, .inr ⟨hk, rfl⟩, rfl⟩))
    · exact .inr (.inr (.inr (.inl ⟨hd, by rw [show s.cstate = _ from hc]; simp, .inl rfl⟩)))
    · exact .inr (.inr (.inr (.inl ⟨hd, by rw [show s.cstate = _ from hc]; simp, .inr rfl⟩)))
  revert h
  unfold plan
  cases ht : s.env.takeTurn.1 with
  | go => exact ofContext
  | irq x =>
    simp only [planTurn]
    split
    · next ha =>
      exact fun h => ⟨_, takeTurn_prog _, .inr (.inr (.inr (.inr (.inl ⟨x, ha, h⟩))))⟩
    · exact ofContext
  | serialInit p =>
    simp only [planTurn]
    split
    · next ha =>
      exact fun h => ⟨_, takeTurn_prog _, .inr (.inr (.inr (.inr (.inr (.inl ⟨p, takeTurn_serialInit ht, ha, (Host.Outcome.next.inj h).symm⟩)))))⟩
    · exact ofContext
  | kbdBytes bs =>
    exact fun h => ⟨s.env.takeTurn.2.joinKbd bs, (joinKbd_prog _ _).trans (takeTurn_prog _),
      .inr (.inr (.inr (.inr (.inr (.inr (Host.Outcome.next.inj h).symm)))))⟩
  | serBytes bs =>
    exact fun h => ⟨s.env.takeTurn.2.joinSer bs, (joinSer_prog _ _).trans (takeTurn_prog _),
      .inr (.inr (.inr (.inr (.inr (.inr (Host.Outcome.next.inj h).symm)))))⟩
  | configChange => simp [planTurn, Plan.run]

/-- The ring effect depends on the three ring fields of the state before only. -/
theorem RingEffect.congr {s s' t : State} (h : RingEffect s t) (hb : s.buf = s'.buf) (hw : s.wr = s'.wr)
    (hr : s.rd = s'.rd) : RingEffect s' t := by
  cases h with
  | same h1 h2 h3 => exact .same (h1.trans hb) (h2.trans hw) (h3.trans hr)
  | push v h1 h2 h3 => exact .push v (by rw [h1, hb, hw]) (by rw [h2, hw]) (h3.trans hr)
  | pop hne h1 h2 h3 =>
    exact .pop (by rw [← hw, ← hr]; exact hne) (h1.trans hb) (h2.trans hw)
      (by rw [h3]; unfold caughtUp pending; rw [hw, hr])
  | reset h1 h2 h3 => exact .reset h1 h2 h3

theorem rbPop_ring (s : State) : RingEffect s (rbPop s).2 := by
  rcases rbPop_cases s with ⟨_, h⟩ | ⟨he, h⟩ <;> rw [h]
  · exact .same rfl rfl rfl
  · exact .pop he rfl rfl rfl

/-- What a step can do to the ring buffer. -/
theorem step_ring {s t : State} (h : step s = .next t) : RingEffect s t := by
  obtain ⟨_, e, _, h⟩ := step_cases h
  rcases h with ⟨d, _, _, rfl⟩ | ⟨i, e', _, _, h⟩ | ⟨k, o, src, _, _, _, rfl⟩ | ⟨_, _, rfl | rfl⟩ | ⟨x, _, h⟩
    | ⟨p, _, _, rfl⟩ | rfl
  · exact (drainStep_ring d _).congr rfl rfl rfl
  · exact (exec_ring h).congr rfl rfl rfl
  · exact .same rfl rfl rfl
  · have h := (rbPop_ring (s.setEnv e)).congr (s' := s) rfl rfl rfl
    cases h with
    | same h1 h2 h3 => exact .same h1 h2 h3
    | push v h1 h2 h3 => exact .push v h1 h2 h3
    | pop hn h1 h2 h3 => exact .pop hn h1 h2 h3
    | reset h1 h2 h3 => exact .reset h1 h2 h3
  · have h := (rbPop_ring (s.setEnv e)).congr (s' := s) rfl rfl rfl
    rcases getPop_cases (s.setEnv e) with ⟨v, _, _, hg⟩ | ⟨_, hg⟩ <;> rw [hg] <;>
      (cases h with
      | same h1 h2 h3 => exact .same h1 h2 h3
      | push v h1 h2 h3 => exact .push v h1 h2 h3
      | pop hn h1 h2 h3 => exact .pop hn h1 h2 h3
      | reset h1 h2 h3 => exact .reset h1 h2 h3)
  · exact (exec_ring h).congr rfl rfl rfl
  · exact .same rfl rfl rfl
  · exact .same rfl rfl rfl

end Sys2Proof.Machine
end

