-- ==== Sys2Proof/Laws/PerInstr.lean ====
section
/-!
SUPPORT. A family of statements about an operation as syntax, one lemma per constructor: its encoding is the fixed bits
that its row of spec/opcode_table.json gives (match and mask), and no bit of a command word's `rsv` field.
-/

namespace Sys2Proof.Laws

/-- A byte or a command word has the bits `mtch` under `mask`. -/
def hasBits (x : Encoded) (mtch mask : Nat) : Bool :=
  match x with
  | .command w => w &&& BitVec.ofNat 16 mask == BitVec.ofNat 16 mtch
  | .scancode b => b &&& BitVec.ofNat 8 mask == BitVec.ofNat 8 mtch

/-- The match and mask of an operation's row. -/
def rowBits : Instr → Nat × Nat
  | .scEscape => (0xE0, 0xFF)
  | .scRelease _ => (0x80, 0x80)
  | .scReleaseExt _ => (0x80, 0x80)
  | .scPress _ => (0x00, 0x80)
  | .scPressExt _ => (0x00, 0x80)
  | .reset => (0x0000, 0xFFFF)
  | .decode _ => (0x1000, 0xFF00)
  | .kbdSource => (0x2000, 0xFFFF)
  | .serialSource => (0x3000, 0xFFFF)
  | .rbPush _ => (0x4000, 0xFF00)
  | .rbPop => (0x5000, 0xFFFF)
  | .drainKbd => (0x6000, 0xFFFF)
  | .drainSer => (0x6001, 0xFFFF)
  | .kbdIntr => (0x7000, 0xFFFF)
  | .serialIntr => (0x8000, 0xFFFF)
  | .pollChar => (0x9000, 0xFFFF)
  | .getChar => (0xA000, 0xFFFF)

namespace EncodesRow

/-- The encoding of the operation has the fixed bits of its row. -/
def Statement (i : Instr) : Prop := hasBits (encode i) (rowBits i).1 (rowBits i).2 = true

theorem scEscape : Statement .scEscape := by unfold Statement; decide
theorem scRelease (k : BitVec 7) : Statement (.scRelease k) := by unfold Statement; revert k; decide
theorem scReleaseExt (k : BitVec 7) : Statement (.scReleaseExt k) := by unfold Statement; revert k; decide
theorem scPress (k : BitVec 7) : Statement (.scPress k) := by unfold Statement; revert k; decide
theorem scPressExt (k : BitVec 7) : Statement (.scPressExt k) := by unfold Statement; revert k; decide
theorem reset : Statement .reset := by unfold Statement; decide
theorem decode (b : Byte) : Statement (.decode b) := by unfold Statement; revert b; decide
theorem kbdSource : Statement .kbdSource := by unfold Statement; decide
theorem serialSource : Statement .serialSource := by unfold Statement; decide
theorem rbPush (v : Byte) : Statement (.rbPush v) := by unfold Statement; revert v; decide
theorem rbPop : Statement .rbPop := by unfold Statement; decide
theorem drainKbd : Statement .drainKbd := by unfold Statement; decide
theorem drainSer : Statement .drainSer := by unfold Statement; decide
theorem kbdIntr : Statement .kbdIntr := by unfold Statement; decide
theorem serialIntr : Statement .serialIntr := by unfold Statement; decide
theorem pollChar : Statement .pollChar := by unfold Statement; decide
theorem getChar : Statement .getChar := by unfold Statement; decide

end EncodesRow

end Sys2Proof.Laws
end

