-- ==== Sys2Proof/Tests/Slice0.lean ====
section
/-!
SUPPORT. Tests of single steps, with results from the vectors of spec/95_test_vectors.md or worked out by hand from the
rules, and for each obligation with hypotheses a witness that meets them.
-/

namespace Sys2Proof.Tests

open Sys2Proof Sys2Proof.Machine

/-! Helpers: a state with some fields set, and one field of an operation's or a step's answer. -/

def withMs (m : BitVec 7) : State := { State.reset with ms := m }
def withEnv (e : Env) : State := { State.reset with env := e }
def inDrain (o : Ctx) (src : Source) (e : Env) : State := { withEnv e with drain := some ⟨o, src⟩ }
def onTurn (t : Turn) : Env := { Env.empty with turns := [t] }
def uninitialised : State := State.launch
def unprotected : Config := { refConfig with exclusion := .unprotected }
def illFormed : Config := { refConfig with modmap := refMap0 }

def nextState : Host.Outcome State Fault Refusal → Option State
  | .next t => some t
  | .fault _ => none
  | .refused _ => none
def faultOf : Host.Outcome State Fault Refusal → Option Fault
  | .next _ => none
  | .fault f => some f
  | .refused _ => none
def refusalOf : Host.Outcome State Fault Refusal → Option Refusal
  | .next _ => none
  | .fault _ => none
  | .refused r => some r
def msAndResult (o : Host.Outcome State Fault Refusal) : Option (BitVec 7 × Option Result) :=
  (nextState o).map fun t => (t.ms, t.result)
def cursorsAndResult (o : Host.Outcome State Fault Refusal) : Option (BitVec 32 × BitVec 32 × Option Result) :=
  (nextState o).map fun t => (t.wr, t.rd, t.result)
def drainOf (o : Host.Outcome State Fault Refusal) : Option (Option Drain) := (nextState o).map State.drain
def cstateOf (o : Host.Outcome State Fault Refusal) : Option CState := (nextState o).map State.cstate

/-! WellFormed: an ill-formed term for each check. -/

theorem test_wf_refuses_release_of_prefix : (Instr.scRelease 0x60).wf = false := by decide
theorem test_wf_refuses_ext_release_of_prefix : (Instr.scReleaseExt 0x60).wf = false := by decide
theorem test_wf_accepts_press_of_0x60 : (Instr.scPress 0x60).wf = true := by decide

/-! Decoding: one word for each constructor, written out from R55 (R, K) and R64 (opsel, rsv, operand). -/

theorem test_decode_scEscape : decodeTableWord 8 0b11100000 = some .scEscape := by decide
theorem test_decode_scRelease : decodeTableWord 8 0b10101010 = some (.scRelease 0b0101010) := by decide
theorem test_decode_scReleaseExt : decodeInput true (.scancode 0b10011101) = .ok (.scReleaseExt 0b0011101) := by decide
theorem test_decode_scPress : decodeTableWord 8 0b00011110 = some (.scPress 0b0011110) := by decide
theorem test_decode_scPressExt : decodeInput true (.scancode 0b01001000) = .ok (.scPressExt 0b1001000) := by decide
theorem test_decode_reset : decodeTableWord 16 0b0000000000000000 = some .reset := by decide
theorem test_decode_decode : decodeTableWord 16 0b0001000000011110 = some (.decode 0b00011110) := by decide
theorem test_decode_kbdSource : decodeTableWord 16 0b0010000000000000 = some .kbdSource := by decide
theorem test_decode_serialSource : decodeTableWord 16 0b0011000000000000 = some .serialSource := by decide
theorem test_decode_rbPush : decodeTableWord 16 0b0100000001000001 = some (.rbPush 0b01000001) := by decide
theorem test_decode_rbPop : decodeTableWord 16 0b0101000000000000 = some .rbPop := by decide
theorem test_decode_drainKbd : decodeTableWord 16 0b0110000000000000 = some .drainKbd := by decide
theorem test_decode_drainSer : decodeTableWord 16 0b0110000000000001 = some .drainSer := by decide
theorem test_decode_kbdIntr : decodeTableWord 16 0b0111000000000000 = some .kbdIntr := by decide
theorem test_decode_serialIntr : decodeTableWord 16 0b1000000000000000 = some .serialIntr := by decide
theorem test_decode_pollChar : decodeTableWord 16 0b1001000000000000 = some .pollChar := by decide
theorem test_decode_getChar : decodeTableWord 16 0b1010000000000000 = some .getChar := by decide

/-- E3, E4, E6, E7, E8, E9. -/
theorem test_refused_words :
    decodeCommand 0xB000 = .error .badOpsel ∧ decodeCommand 0x0100 = .error .badOperand
      ∧ decodeCommand 0x111E = .error .badOperand ∧ decodeCommand 0x5001 = .error .badOperand
      ∧ decodeCommand 0x6002 = .error .badOperand ∧ decodeCommand 0xF123 = .error .badOpsel := by decide

/-! The decoder (sections 1 and 2 of the vectors; REF). -/

/-- V6. -/
theorem test_escape_pending : msAndResult (exec .scEscape (withMs 0x40)) = some (0x40, some (.outcome .ignored)) := by decide
/-- S4: 0xAA after shift-down. -/
theorem test_release_shift :
    msAndResult (exec (.scRelease 0x2A) (withMs 0x01)) = some (0x00, some (.outcome .ignored)) := by decide
/-- S5: the release of CapsLock leaves CAPSLOCK alone. -/
theorem test_release_keeps_toggle :
    msAndResult (exec (.scRelease 0x3A) (withMs 0x08)) = some (0x08, some (.outcome .ignored)) := by decide
/-- V22: E0 9D clears CTRL. -/
theorem test_release_ext_ctrl :
    msAndResult (exec (.scReleaseExt 0x1D) (withMs 0x42)) = some (0x00, some (.outcome .ignored)) := by decide
/-- V24: E0 AA leaves SHIFT alone. -/
theorem test_release_ext_fake_shift :
    msAndResult (exec (.scReleaseExt 0x2A) (withMs 0x41)) = some (0x01, some (.outcome .ignored)) := by decide
/-- V11: CapsLock with Shift gives lower case. -/
theorem test_press_caps_shift :
    msAndResult (exec (.scPress 0x1E) (withMs 0x09)) = some (0x09, some (.outcome (.char 0x61))) := by decide
/-- V39: NumLock flips while CTRL is held. -/
theorem test_press_numlock :
    msAndResult (exec (.scPress 0x45) (withMs 0x02)) = some (0x12, some (.outcome .ignored)) := by decide
/-- S6: the arrow's own slot, and ESC is cleared. -/
theorem test_press_ext_up :
    msAndResult (exec (.scPressExt 0x48) (withMs 0x40)) = some (0x00, some (.outcome (.char 0xE2))) := by decide
/-- V41, Continue: one write of 0x03 to port 0x92, SideEffect. -/
theorem test_press_ext_reset_write :
    (nextState (exec (.scPressExt 0x53) { withMs 0x46 with env := { Env.empty with resps := [.continues] } })).map
      (fun t => (t.ms, t.hist, t.result, t.resetTaken))
      = some (0x06, [⟨0x92, 0x03⟩], some (.outcome .sideEffect), false) := by decide
/-- V8: DECODE C8 with ESC pending is an extended release. -/
theorem test_decode_c8_pending :
    msAndResult (exec (.decode 0xC8) (withMs 0x40)) = some (0x00, some (.outcome .ignored)) := by decide
/-- V31: Ctrl+/ is 0xEF under REF. -/
theorem test_decode_ctrl_slash :
    msAndResult (exec (.decode 0x35) (withMs 0x02)) = some (0x02, some (.outcome (.char 0xEF))) := by decide
/-- K2: status 0xFE has the DIB bit clear. -/
theorem test_kbd_source_no_data :
    msAndResult (exec .kbdSource (withEnv { Env.empty with kbd := .free [0xFE] [0x1E] }))
      = some (0x00, some (.outcome .noEvent)) := by decide
/-- K4: only the DIB bit matters. -/
theorem test_kbd_source_prefix :
    msAndResult (exec .kbdSource (withEnv { Env.empty with kbd := .free [0x1D] [0xE0] }))
      = some (0x40, some (.outcome .ignored)) := by decide

/-! The serial source. -/

/-- K8: serial bytes skip the decoder. -/
theorem test_serial_source_e0 :
    msAndResult (exec .serialSource
      { withEnv { Env.empty with ser := .free [true] [0xE0] } with serialExists := true })
      = some (0x00, some (.outcome (.char 0xE0))) := by decide
/-- K7: a received 0x00 is Ignored. -/
theorem test_serial_source_zero :
    msAndResult (exec .serialSource
      { withEnv { Env.empty with ser := .free [true] [0x00] } with serialExists := true })
      = some (0x00, some (.outcome .ignored)) := by decide

/-! The ring buffer. -/

/-- B8, its first push, at slot 510. -/
theorem test_push_slot_510 :
    (nextState (exec (.rbPush 0x41) { State.reset with wr := 4294967294, rd := 4294967294 })).map (fun t => (t.wr, t.buf))
      = some (4294967295, [(510, 0x41)]) := by decide
/-- B3: a push stores 0. -/
theorem test_push_zero :
    (nextState (exec (.rbPush 0x00) State.reset)).map (fun t => (t.wr, t.buf)) = some (1, [(0, 0x00)]) := by decide
/-- B11: with wr = 513 and rd = 0 the pop catches up to push #1. -/
theorem test_pop_catches_up :
    cursorsAndResult (exec .rbPop { State.reset with wr := 513, buf := [(0, 0x00), (1, 0x01)] })
      = some (513, 2, some (.popped (some 0x01))) := by decide
/-- B4: d = CAP exactly, no catch-up. -/
theorem test_pop_full_no_catch_up :
    cursorsAndResult (exec .rbPop { State.reset with wr := 512, buf := [(0, 0x30), (1, 0x31)] })
      = some (512, 1, some (.popped (some 0x30))) := by decide

/-! RESET, drains, interrupts. -/

/-- E1. -/
theorem test_reset_from_launch :
    (nextState (exec .reset { uninitialised with ms := 0x7F, wr := 5, rd := 2, buf := [(3, 0x41)] })).map
      (fun t => (t.ms, t.wr, t.rd, t.buf.length, t.init)) = some (0x00, 0, 0, 0, true) := by decide
/-- E5. -/
theorem test_reset_twice : refusalOf (exec .reset State.reset) = some .reinit := by decide
/-- E2. -/
theorem test_decode_before_reset : faultOf (exec (.decode 0x1E) uninitialised) = some (.uninit (.decode 0x1E)) := by decide
/-- K9, the entry step. -/
theorem test_drain_kbd_entry : drainOf (exec .drainKbd State.reset) = some (some ⟨.consumer, .kbd⟩) := by decide
theorem test_drain_ser_entry : drainOf (exec .drainSer State.reset) = some (some ⟨.consumer, .ser⟩) := by decide
theorem test_kbd_intr_entry : drainOf (exec .kbdIntr State.reset) = some (some ⟨.kbdIrq, .kbd⟩) := by decide
theorem test_serial_intr_entry : drainOf (exec .serialIntr State.reset) = some (some ⟨.serIrq, .ser⟩) := by decide
/-- E10: the entry step under `unprotected`. -/
theorem test_overlap_faults :
    faultOf (step { inDrain .consumer .kbd (onTurn (.irq .kbd)) with cfg := unprotected })
      = some (.concurrentDrain .consumer .kbdIrq) := by decide
/-- E11: under `masked` the same interrupt is held, and the drain goes on (here it exits). -/
theorem test_masked_interrupt_held :
    drainOf (step (inDrain .consumer .kbd { onTurn (.irq .kbd) with kbd := .queue [] })) = some none := by decide
/-- K10, its second iteration: 1E with SHIFT held pushes 0x41. -/
theorem test_drain_iteration_pushes :
    (nextState (step { inDrain .consumer .kbd { onTurn .go with kbd := .queue [0x1E, 0xAA] } with ms := 0x01 })).map
      (fun t => (t.buf, t.wr, t.env.kbd, t.drain.isSome)) = some ([(0, 0x41)], 1, .queue [0xAA], true) := by decide
/-- K19: with ResetTaken the drain does not finish. -/
theorem test_drain_reset_taken :
    (nextState (step { inDrain .consumer .kbd
        { onTurn .go with kbd := .queue [0x53], resps := [.resetTaken] } with ms := 0x46 })).map
      (fun t => (t.resetTaken, t.wr, t.drain, t.hist)) = some (true, 0, some ⟨.consumer, .kbd⟩, [⟨0x92, 0x03⟩]) := by decide
/-- An interrupt's drain exits without touching the consumer's position (R138). -/
theorem test_interrupt_return :
    (nextState (step { inDrain .serIrq .ser (onTurn .go) with cstate := .poll 2 .kbdFirst })).map
      (fun t => (t.drain, t.cstate)) = some (none, .poll 2 .kbdFirst) := by decide

/-! POLL_CHAR and GET_CHAR. -/

theorem test_poll_start :
    cstateOf (exec .pollChar (withEnv { Env.empty with orders := [.serFirst] })) = some (.poll 0 .serFirst) := by decide
theorem test_get_start :
    cstateOf (exec .getChar (withEnv { Env.empty with orders := [.kbdFirst] })) = some (.get 0 .kbdFirst) := by decide
/-- The consumer's second drain is the order's other source (R118). -/
theorem test_poll_second_drain :
    drainOf (step { withEnv (onTurn .go) with cstate := .poll 1 .serFirst }) = some (some ⟨.consumer, .kbd⟩) := by decide
/-- K18: a popped 0x00 is skipped and the next iteration starts. -/
theorem test_get_skips_zero :
    (nextState (step { withEnv { onTurn .go with orders := [.serFirst] } with
        cstate := .get 2 .kbdFirst, wr := 2, buf := [(0, 0x00), (1, 0x41)] })).map
      (fun t => (t.cstate, t.rd, t.result)) = some (.get 0 .serFirst, 1, none) := by decide

/-! Steps from the fetch, and the run's end. -/

/-- The very next step after reset runs the placed word. -/
theorem test_fetch_word_runs :
    msAndResult (step (State.reset.withFetchWord 16 0x101E)) = some (0x00, some (.outcome (.char 0x61))) := by decide
theorem test_fetch_scancode_runs :
    msAndResult (step (State.reset.withFetchWord 8 0x2A)) = some (0x01, some (.outcome .ignored)) := by decide
/-- P7: the refused word. -/
theorem test_refused_step : refusalOf (step (State.reset.withFetchWord 16 0xB000)) = some .badOpsel := by decide
theorem test_final_at_reset : final State.reset = true ∧ final uninitialised = false := by decide
theorem test_reset_end_not_final :
    final { State.reset with resetTaken := true } = false ∧ resetEnd { State.reset with resetTaken := true } = true := by decide

/-! REF: well-formed (R8), MAP3 = MAP2 (R27), and the entries the source fixes (R68). -/

theorem test_ref_well_formed : wfConfig refConfig = true := by decide
theorem test_ref_ctrl_duplicate : ctrlDuplicate refConfig = true := by decide
/-- Item 6 by Ctrl, Alt, then the extended Delete key. -/
theorem test_ref_meets_source : meetsSource refConfig :=
  ⟨by decide, [0x1D, 0x38, 0xE0], 0x53, by decide⟩
/-- KEY_DEL stands in MAP2 at the left Shift key alone: that key's press sets SHIFT and reads MAP3. -/
def deleteUnderShiftKey : Config :=
  { refConfig with map2 := tableOfPairs [(0x2A, 0xE9)], map3 := tableOfPairs [] }
/-- R68 item 6 is not met by an entry that no press with CTRL and ALT held looks up. -/
theorem test_delete_under_shift_key_not_reachable :
    sourceEntries deleteUnderShiftKey = true ∧ ¬ deleteReachable deleteUnderShiftKey := by
  have hmap : ∀ i : Byte, tableRead deleteUnderShiftKey.map3 i ≠ 0xE9
      ∧ (i ≠ 0x2A → tableRead deleteUnderShiftKey.map2 i ≠ 0xE9) := by decide
  have hms : ∀ m : BitVec 7, (holds m (msCtrl ||| msAlt) = true → tableNumber m = 2 ∨ tableNumber m = 3)
      ∧ tableNumber (pressMs 0x01 0x00 m) ≠ 2 := by decide
  refine ⟨by decide, fun ⟨bs, b, _, hheld, hdel⟩ => ?_⟩
  have hc : ((decodedFromReset deleteUnderShiftKey bs).setMs (clearEsc (decodedFromReset deleteUnderShiftKey bs).ms)).cfg
      = deleteUnderShiftKey := decodedFromReset_cfg _ bs
  generalize pressIndex (decodedFromReset deleteUnderShiftKey bs).ms b = i at hheld hdel
  generalize (decodedFromReset deleteUnderShiftKey bs).setMs (clearEsc (decodedFromReset deleteUnderShiftKey bs).ms) = s
    at hheld hdel hc
  simp only [ctrlAltHeld] at hheld
  simp only [lookedUp, hc] at hdel
  rcases (hms _).1 hheld with h | h <;> rw [h] at hdel
  · by_cases hi : i = 0x2A
    · refine (hms s.ms).2 ?_
      rw [hi] at h
      simp only [pressedMs, hc] at h
      exact h
    · exact (hmap i).2 hi hdel
  · exact (hmap i).1 hdel
theorem test_ill_formed_refused : wfConfig illFormed = false := by decide

/-! Witnesses: for each obligation with hypotheses, a case that meets them, one for each clause. -/

theorem witness_DecodeEncodeRoundTrip :
    (Instr.scReleaseExt 0x61).wf = true ∧ (Instr.scReleaseExt 0x61).readsUnder true = true := by decide
theorem witness_EncodingIsUnique : decodeInput true (.scancode 0xE1) = .ok (.scReleaseExt 0x61) := by decide
theorem witness_ByteClassesInOrder :
    (0xE1 : Byte) ≠ 0xE0 ∧ (0xE1 : Byte).getLsbD 7 = true ∧ (0x80 : Byte).getLsbD 7 = true
      ∧ (0x7F : Byte).getLsbD 7 = false := by decide
theorem witness_TableIndexOfClass :
    (0x80 : Byte).getLsbD 7 = true ∧ (0x7F : Byte).getLsbD 7 = false ∧ (0x3F : BitVec 7).getLsbD 6 = false
      ∧ (0x40 : BitVec 7).getLsbD 6 = true := by decide
theorem witness_CommandWordRefusals :
    0xB000 ≤ (0xB000 : CommandWord).toNat ∧ (0xAF00 : CommandWord).toNat < 0xB000 ∧ rsvOf 0xAF00 ≠ 0
      ∧ (0xA001 : CommandWord).toNat < 0xB000 ∧ opselOf 0xA001 ≠ 1 ∧ opselOf 0xA001 ≠ 4 ∧ opselOf 0xA001 ≠ 6
      ∧ operandOf 0xA001 ≠ 0 ∧ opselOf 0x6002 = 6 ∧ operandOf 0x6002 ≠ 0 ∧ operandOf 0x6002 ≠ 1 := by decide
theorem witness_StepRunsDecodedOperation :
    unmarked State.reset = true ∧ wfConfig State.reset.cfg = true ∧ State.reset.drain = none
      ∧ State.reset.cstate = .idle
      ∧ (State.reset.withFetchWord 16 0x5000).env.turns = .go :: []
      ∧ (State.reset.withFetchWord 16 0x5000).env.prog = .command 0x5000 :: []
      ∧ decodeInput ((State.reset.withFetchWord 16 0x5000).ms.getLsbD 6) (.command 0x5000) = .ok .rbPop := by decide
theorem witness_FetchedWordIsExecuted :
    unmarked State.reset = true ∧ wfConfig State.reset.cfg = true
      ∧ decodeInput (State.reset.ms.getLsbD 6) (inputOfBits 8 0xAA) = .ok (.scRelease 0x2A) := by decide
theorem witness_RefusedWordChangesNothing :
    unmarked (State.reset.withFetchWord 16 0xB000) = true ∧ wfConfig State.reset.cfg = true
      ∧ issues (State.reset.withFetchWord 16 0xB000) = true
      ∧ (State.reset.withFetchWord 16 0xB000).env.prog = .command 0xB000 :: []
      ∧ decodeCommand 0xB000 = .error .badOpsel := by decide
theorem witness_MarkedStateIsStuck :
    unmarked { State.reset with faulted := true } = false ∧ unmarked { State.reset with refused := true } = false
      ∧ unmarked { State.reset with resetTaken := true } = false := by decide
theorem witness_InitGuardsEveryOperation :
    unmarked uninitialised = true ∧ wfConfig uninitialised.cfg = true ∧ uninitialised.init = false
      ∧ State.reset.init = true ∧ Instr.rbPop ≠ .reset := by decide
theorem witness_FaultAndRefusalSetOneMark :
    faultOf (step (uninitialised.withFetchWord 16 0x5000)) = some (.uninit .rbPop)
      ∧ refusalOf (step (State.reset.withFetchWord 16 0x0000)) = some .reinit := by decide
theorem witness_IllFormedConfigIsRefused :
    unmarked { State.reset with cfg := illFormed } = true ∧ wfConfig illFormed = false := by decide
theorem witness_ConfigurationNeverChanges :
    (nextState (step (State.reset.withFetchWord 16 0x4041))).isSome = true
      ∧ unmarked (withEnv (onTurn .configChange)) = true ∧ (withEnv (onTurn .configChange)).env.turns = .configChange :: [] := by
  decide
theorem witness_IdleBlockWaits :
    unmarked (withEnv (onTurn .go)) = true ∧ wfConfig (withEnv (onTurn .go)).cfg = true
      ∧ issues (withEnv (onTurn .go)) = true ∧ (withEnv (onTurn .go)).env.prog = [] := by decide
theorem witness_InterruptAdmission :
    ready (withEnv (onTurn (.irq .ser))) = true ∧ (withEnv (onTurn (.irq .ser))).env.turns = .irq .ser :: []
      ∧ (withEnv (onTurn (.irq .ser))).cfg.irqSerEn = true ∧ (withEnv (onTurn (.irq .ser))).drain = none
      ∧ (inDrain .kbdIrq .kbd (onTurn (.irq .ser))).drainOwner = some .kbdIrq := by decide
theorem witness_DrainExclusion :
    ready (inDrain .consumer .ser (onTurn (.irq .kbd))) = true
      ∧ (inDrain .consumer .ser (onTurn (.irq .kbd))).drain = some ⟨.consumer, .ser⟩
      ∧ (inDrain .consumer .ser (onTurn (.irq .kbd))).env.turns = .irq .kbd :: [] ∧ refConfig.exclusion = .masked
      ∧ ready { inDrain .consumer .ser (onTurn (.irq .kbd)) with cfg := unprotected } = true
      ∧ unprotected.exclusion = .unprotected ∧ unprotected.irqKbdEn = true := by decide
theorem witness_MaskedDrainsNeverOverlap :
    State.reset.cfg.exclusion = .masked
      ∧ (inDrain .consumer .ser (onTurn (.irq .kbd))).drain = some ⟨.consumer, .ser⟩
      ∧ (nextState (step (inDrain .consumer .ser (onTurn (.irq .kbd))))).isSome = true := by decide
theorem witness_InterruptLeavesConsumerAlone :
    (inDrain .serIrq .ser (onTurn .go)).drain = some ⟨.serIrq, .ser⟩
      ∧ (nextState (step (inDrain .serIrq .ser (onTurn .go)))).isSome = true := by decide
theorem witness_SingleWriters :
    (nextState (step (inDrain .consumer .kbd { onTurn .go with kbd := .queue [0x1E] }))).isSome = true
      ∧ (nextState (step { withEnv (onTurn .go) with cstate := .poll 1 .kbdFirst })).isSome = true := by decide
theorem witness_ResetOperation :
    unmarked uninitialised = true ∧ wfConfig uninitialised.cfg = true ∧ uninitialised.init = false := by decide
theorem witness_SerialInitLatchesOnce :
    ready (withEnv (onTurn (.serialInit true))) = true
      ∧ (withEnv (onTurn (.serialInit true))).env.turns = .serialInit true :: []
      ∧ (withEnv (onTurn (.serialInit true))).serialDone = false
      ∧ (withEnv (onTurn (.serialInit true))).drain = none ∧ (withEnv (onTurn (.serialInit true))).cstate = .idle
      ∧ ready { withEnv (onTurn (.serialInit true)) with serialDone := true } = true
      ∧ ready (inDrain .serIrq .ser (onTurn (.serialInit true))) = true
      ∧ (inDrain .serIrq .ser (onTurn (.serialInit true))).drain ≠ none
      ∧ ready { withEnv (onTurn (.serialInit true)) with cstate := .poll 2 .kbdFirst } = true := by decide
/-- The steps of the second half: serial init itself, one that writes neither bit, and RESET before init. -/
theorem witness_SerialInitLatchesOnce_steps :
    (nextState (step (withEnv (onTurn (.serialInit true))))).map (fun t => (t.serialExists, t.serialDone)) = some (true, true)
      ∧ (nextState (step (inDrain .serIrq .ser (onTurn (.serialInit true))))).map
          (fun t => (t.serialExists, t.serialDone)) = some (false, false)
      ∧ (nextState (step ({ uninitialised with serialExists := true, serialDone := true }.withFetchWord 16 0x0000))).map
          (fun t => (t.init, t.serialExists, t.serialDone)) = some (true, false, false) := by decide
/-- For every obligation whose only hypothesis is `ready`: PrefixSetsEscape, DecodeRunsItsClass, LawsOfTheDecoder,
UnreadCountBoundsPops. -/
theorem witness_ready : ready State.reset = true := by decide
/-- Both values of ESC: for PressEffect, ExtendedPressEffect and PressModifierUpdate. -/
theorem witness_PressModifierUpdate :
    ready State.reset = true ∧ State.reset.ms.getLsbD 6 = false ∧ ready (withMs 0x40) = true
      ∧ (withMs 0x40).ms.getLsbD 6 = true := by decide
theorem witness_ReleaseClearsModifiers :
    ready State.reset = true ∧ State.reset.ms.getLsbD 6 = false ∧ (0x1E : BitVec 7) ≠ 0x60
      ∧ tableRead State.reset.cfg.modmap 0x1E = 0 := by decide
theorem witness_ExtendedReleaseClearsModifiers :
    ready (withMs 0x41) = true ∧ (withMs 0x41).ms.getLsbD 6 = true ∧ (0x2A : BitVec 7) ≠ 0x60
      ∧ tableRead (withMs 0x41).cfg.modmap 0xAA = 0 := by decide
/-- The reset branch of a press is met: Ctrl and Alt held, and MAP2[0xD3] = KEY_DEL. -/
theorem witness_PressEffect_reset_branch : firesReset (withMs 0x06) 0xD3 = true := by decide
theorem witness_CapsLockSwapsLetters :
    (0x08 : BitVec 7).getLsbD 3 = true ∧ (0x77 : BitVec 7).getLsbD 3 = false
      ∧ caseSwap 0x08 0x61 = 0x41 ∧ caseSwap 0x08 0x7A = 0x5A ∧ caseSwap 0x08 0x41 = 0x61 ∧ caseSwap 0x08 0x5A = 0x7A
      ∧ caseSwap 0x08 0x40 = 0x40 ∧ caseSwap 0x08 0x5B = 0x5B ∧ caseSwap 0x08 0x60 = 0x60 ∧ caseSwap 0x08 0x7B = 0x7B := by
  decide
theorem witness_KeyboardSource :
    unmarked State.reset = true ∧ wfConfig State.reset.cfg = true ∧ uninitialised.init = false
      ∧ ((withEnv { Env.empty with kbd := .queue [] }).env.readKbdStatus refConfig.kbdDibMask).1 &&& refConfig.kbdDibMask = 0
      ∧ ((withEnv { Env.empty with kbd := .queue [0] }).env.readKbdStatus refConfig.kbdDibMask).1
          &&& refConfig.kbdDibMask ≠ 0 := by decide
theorem witness_SerialSource :
    State.reset.serialExists = false ∧ uninitialised.init = false
      ∧ ({ Env.empty with ser := .free [false] [] } : Env).readSerReady.1 = false
      ∧ ({ Env.empty with ser := .free [true] [0] } : Env).readSerReady.1 = true := by decide
theorem witness_QueueDeviceAnswers :
    ({ Env.empty with kbd := .queue [] } : Env).kbd = .queue [] ∧ ({ Env.empty with ser := .queue [0x41] } : Env).ser = .queue [0x41]
      ∧ unmarked (withEnv (onTurn (.kbdBytes [0x1E]))) = true ∧ wfConfig (withEnv (onTurn (.kbdBytes [0x1E]))).cfg = true
      ∧ (withEnv (onTurn (.kbdBytes [0x1E]))).env.turns = .kbdBytes [0x1E] :: []
      ∧ (withEnv (onTurn (.serBytes []))).env.turns = .serBytes [] :: [] := by
  decide
/-- R122: bytes join at the tail, while a drain runs too. -/
theorem test_bytes_join_queue :
    (nextState (step (inDrain .consumer .kbd { onTurn (.kbdBytes [0x30, 0x1E]) with kbd := .queue [0x2A] }))).map
        (fun t => (t.env.kbd, t.drain)) = some (.queue [0x2A, 0x30, 0x1E], some ⟨.consumer, .kbd⟩) := by decide
theorem witness_ListedDrawsAreTaken :
    ({ Env.empty with kbd := .free [0xFF] [0x00] } : Env).kbd = .free [0xFF] [0x00]
      ∧ ({ Env.empty with ser := .free [true] [0x00] } : Env).ser = .free [true] [0x00]
      ∧ ({ Env.empty with resps := [.resetTaken] } : Env).resps = [.resetTaken]
      ∧ ({ Env.empty with orders := [.serFirst] } : Env).orders = [.serFirst] := by decide
theorem witness_PushStoresAndAdvances :
    unmarked State.reset = true ∧ wfConfig State.reset.cfg = true ∧ State.reset.init = true ∧ State.reset.drain = none
      ∧ uninitialised.init = false ∧ wfConfig unprotected = true ∧ unprotected.exclusion = .unprotected
      ∧ (inDrain .kbdIrq .kbd Env.empty).drain ≠ none ∧ (inDrain .kbdIrq .kbd Env.empty).cfg.exclusion = .masked := by decide
theorem witness_PopReturnsOldestUnread :
    unmarked State.reset = true ∧ wfConfig State.reset.cfg = true ∧ State.reset.wr = State.reset.rd
      ∧ ({ State.reset with wr := 513 } : State).wr ≠ ({ State.reset with wr := 513 } : State).rd
      ∧ uninitialised.init = false := by decide
theorem witness_SlotsContinueAcrossWrap :
    ready { State.reset with wr := 4294967294, rd := 4294967294 } = true := by decide
theorem witness_UnreadCountBoundsPops :
    ready { State.reset with wr := 600 } = true ∧ 511 ≤ unread { State.reset with wr := 600 } := by decide
theorem witness_PopsReturnPushesInOrder :
    ready State.reset = true ∧ State.reset.drain = none ∧ State.reset.wr = State.reset.rd
      ∧ (List.replicate 512 (0x41 : Byte)).length ≤ 512 ∧ 512 < (List.replicate 513 (0x41 : Byte)).length
      ∧ (List.replicate 513 (0x41 : Byte)).length < 2 ^ 32 := by
  rw [List.length_replicate, List.length_replicate]; decide
theorem witness_CursorAliasing :
    ready State.reset = true ∧ State.reset.drain = none ∧ State.reset.wr = State.reset.rd
      ∧ (List.replicate (2 ^ 32) (0x41 : Byte)).length = 2 ^ 32
      ∧ (List.replicate (2 ^ 32 + 512) (0x41 : Byte)).length = 2 ^ 32 + 512 :=
  ⟨by decide, by decide, by decide, List.length_replicate, List.length_replicate⟩
theorem witness_RingRefinesQueue :
    ready State.reset = true ∧ State.reset.drain = none
      ∧ (State.reset.wr - State.reset.rd).toNat ≠ 2 ^ 32 - 1 := by decide
theorem witness_DrainEntryStarts : ready State.reset = true ∧ State.reset.drain = none := by decide
/-- One case for each clause: Char, Ignored, SideEffect, NoEvent of an interrupt and of the consumer, and no outcome. -/
theorem witness_DrainIteration :
    ready (inDrain .consumer .kbd (onTurn .go)) = true
      ∧ (querySource .kbd (withEnv { Env.empty with kbd := .queue [0x1E] })).1 = some (.char 0x61)
      ∧ (querySource .kbd (withEnv { Env.empty with kbd := .queue [0xE0] })).1 = some .ignored
      ∧ (querySource .kbd { withEnv { Env.empty with kbd := .queue [0x53], resps := [.continues] } with ms := 0x46 }).1
          = some .sideEffect
      ∧ (querySource .kbd (withEnv { Env.empty with kbd := .queue [] })).1 = some .noEvent
      ∧ (querySource .ser (withEnv Env.empty)).1 = some .noEvent
      ∧ (querySource .kbd { withEnv { Env.empty with kbd := .queue [0x53], resps := [.resetTaken] } with ms := 0x46 }).1
          = none := by decide
theorem witness_PollAndGetStart :
    ready (withEnv { Env.empty with orders := [.serFirst] }) = true
      ∧ (withEnv { Env.empty with orders := [.serFirst] }).env.orders = .serFirst :: []
      ∧ State.reset.env.orders = [] := by decide
theorem witness_PollEntersBothDrains :
    ready { withEnv (onTurn .go) with cstate := .poll 0 .serFirst } = true
      ∧ ready { withEnv (onTurn .go) with cstate := .get 1 .serFirst } = true
      ∧ (withEnv (onTurn .go)).drain = none ∧ (withEnv (onTurn .go)).env.turns = .go :: [] := by decide
theorem witness_PollEndsWithOnePop :
    ready { withEnv (onTurn .go) with cstate := .poll 2 .kbdFirst } = true := by decide
theorem witness_GetCharSkipsZeroAndEmpty :
    ready { withEnv (onTurn .go) with cstate := .get 2 .kbdFirst } = true
      ∧ (nextState (exec .rbPop State.reset)).map State.result = some (some (.popped none))
      ∧ (nextState (exec .rbPop { State.reset with wr := 1, buf := [(0, 0x00)] })).map State.result
          = some (some (.popped (some 0x00)))
      ∧ (nextState (exec .rbPop { State.reset with wr := 1, buf := [(0, 0x01)] })).map State.result
          = some (some (.popped (some 0x01))) := by decide
theorem witness_PollCharReturnsFromEmptyDevices :
    let s := withEnv { Env.empty with
      kbd := .queue [], ser := .queue [], prog := [.command 0x9000], turns := List.replicate 6 .go }
    ready s = true ∧ s.drain = none ∧ s.cstate = .idle ∧ s.env.prog = .command 0x9000 :: []
      ∧ s.env.turns = List.replicate 6 .go ++ [] := by decide
theorem witness_SerialDrainDeliversQueue :
    let s := { inDrain .serIrq .ser { Env.empty with ser := .queue [0x00, 0x62], turns := List.replicate 3 .go } with
      serialExists := true }
    ready s = true ∧ s.serialExists = true ∧ s.drain = some ⟨.serIrq, .ser⟩ ∧ s.env.ser = .queue [0x00, 0x62]
      ∧ s.env.turns = List.replicate ([0x00, 0x62].length + 1) .go ++ [] := by decide
theorem witness_KeyboardDrainTerminates :
    let s := inDrain .consumer .kbd { Env.empty with kbd := .queue [0x1E], turns := List.replicate 2 .go }
    ready s = true ∧ s.drain = some ⟨.consumer, .kbd⟩ ∧ s.env.kbd = .queue [0x1E]
      ∧ s.env.turns = List.replicate ([0x1E].length + 1) .go ++ [] := by decide
/-- For StepKeepsStorageCanonical: a step that pushes, from a canonical storage. -/
theorem witness_StepKeepsStorageCanonical :
    Memory.wf [(0, 0x41), (511, 0x42)] = true
      ∧ (nextState (step ({ State.reset with buf := [(0, 0x41), (511, 0x42)] }.withFetchWord 16 0x4041))).isSome = true := by
  decide
/-- For StepKeepsUnreadWritten: two unread bytes, both written. -/
theorem witness_StepKeepsUnreadWritten :
    UnreadWritten { State.reset with wr := 2, buf := [(0, 0x41), (1, 0x42)] }
      ∧ (nextState (step ({ State.reset with wr := 2, buf := [(0, 0x41), (1, 0x42)] }.withFetchWord 16 0x5000))).isSome
          = true := by
  refine ⟨?_, by decide⟩
  unfold UnreadWritten
  decide
/-- For StepKeepsOnlyResetWrites, StepKeepsRunMarks and StepKeepsNoZeroDelivered: a step that fires the reset write. -/
theorem witness_step_with_reset_write :
    OnlyResetWrites State.reset ∧ NoZeroDelivered State.reset
      ∧ (nextState (step ({ withMs 0x46 with env := { Env.empty with resps := [.resetTaken] } }.withFetchWord 8 0x53))).map
          (fun t => (t.resetTaken, t.hist.length)) = some (true, 1) := by
  refine ⟨by simp [OnlyResetWrites, State.reset], by simp [NoZeroDelivered, State.reset], by decide⟩
/-- For StepKeepsPositionsAgreeing: the consumer's second drain of a poll, in the middle of which a step is taken. -/
theorem witness_StepKeepsPositionsAgreeing :
    PositionsAgree { inDrain .consumer .ser (onTurn .go) with cstate := .poll 1 .kbdFirst }
      ∧ (nextState (step { inDrain .consumer .ser (onTurn .go) with cstate := .poll 1 .kbdFirst })).isSome = true := by
  refine ⟨?_, by decide⟩
  intro d hd
  cases hd
  exact .inr ⟨rfl, rfl⟩

end Sys2Proof.Tests
end

section
/-!
PROOFS. The initialisation guard (R33): every operation but RESET runs behind the check `operation`, and RESET behind its
own.
-/

namespace Sys2Proof.Machine

/-- The checks of R131 pass and init = 0: F_UNINIT, whatever the operation would have done (R33). -/
theorem operation_uninit (i : Instr) (s : State) (k) (hu : unmarked s = true) (hc : wfConfig s.cfg = true)
    (hi : s.init = false) : operation i s k = .fault (.uninit i) := by
  simp [operation, checked_eq s _ hu hc, hi]

/-- Every operation but RESET is guarded by the check under its own name, so its F_UNINIT records it (R33, R130). -/
theorem exec_eq_operation {i : Instr} (hi : i ≠ .reset) (s : State) : ∃ k, exec i s = operation i s k := by
  cases i with
  | reset => exact absurd rfl hi
  | _ => exact ⟨_, rfl⟩

theorem exec_uninit {i : Instr} {s : State} (hne : i ≠ .reset) (hu : unmarked s = true)
    (hc : wfConfig s.cfg = true) (hi : s.init = false) : exec i s = .fault (.uninit i) := by
  obtain ⟨k, hk⟩ := exec_eq_operation hne s
  rw [hk, operation_uninit i s k hu hc hi]

/-- RESET where the configuration is accepted (R33, R150). -/
theorem exec_reset_eq {s : State} (hu : unmarked s = true) (hc : wfConfig s.cfg = true) :
    exec .reset s = if s.init then .refused .reinit else .next (resetState s) :=
  checked_eq s _ hu hc

/-- Settles O12: the guard of every other operation, and RESET's own two branches. -/
theorem initGuardsEveryOperation : Obligations.InitGuardsEveryOperation := by
  unfold Obligations.InitGuardsEveryOperation
  intro s hu hc
  refine ⟨fun hi i hne => exec_uninit hne hu hc hi, fun hi => ⟨resetState s, ?_, rfl⟩, fun hi => ?_⟩
  · rw [exec_reset_eq hu hc, hi]
    rfl
  · rw [exec_reset_eq hu hc, hi]
    rfl

end Sys2Proof.Machine
end

section
/-!
PROOFS. The configuration (R7, R53): every operation and every step leaves it, and a turn that attempts to change it is
refused.
-/

namespace Sys2Proof.Machine

theorem Decodes.cfg_eq {s : State} {r} (h : Decodes s r) : r.2.cfg = s.cfg := by
  rw [h.frame]

@[simp] theorem finish_cfg (r : Option DecodeOutcome × State) : (finish r).cfg = r.2.cfg := by
  rw [finish_frame]

@[simp] theorem rbPush_cfg (v : Byte) (s : State) : (rbPush v s).cfg = s.cfg := rfl

@[simp] theorem rbPop_cfg (s : State) : (rbPop s).2.cfg = s.cfg := by
  rw [rbPop_frame]

@[simp] theorem pollStart_cfg (s : State) : (pollStart s).cfg = s.cfg := rfl

@[simp] theorem getStart_cfg (s : State) : (getStart s).cfg = s.cfg := rfl

@[simp] theorem pollPop_cfg (s : State) : (pollPop s).cfg = s.cfg := rbPop_cfg s

@[simp] theorem getPop_cfg (s : State) : (getPop s).cfg = s.cfg := by
  rcases getPop_cases s with ⟨v, _, _, h⟩ | ⟨_, h⟩ <;> simp [h]

theorem drainEnter_cfg {ctx : Ctx} {src : Source} {s t : State} (h : drainEnter ctx src s = .next t) :
    t.cfg = s.cfg := by
  rcases drainEnter_cases ctx src s with ⟨_, h'⟩ | ⟨_, _, h'⟩ | ⟨d, _, _, h'⟩ <;> rw [h'] at h
  · obtain rfl := Host.Outcome.next.inj h
    rfl
  · obtain rfl := Host.Outcome.next.inj h
    rfl
  · cases h

@[simp] theorem drainExit_cfg (owner : Ctx) (s : State) : (drainExit owner s).cfg = s.cfg := by
  cases owner <;> rfl

@[simp] theorem drainTake_cfg (owner : Ctx) (r : Option DecodeOutcome × State) : (drainTake owner r).cfg = r.2.cfg := by
  rcases drainTake_cases owner r with ⟨_, h⟩ | ⟨c, _, h⟩ | ⟨_, h⟩ <;> simp [h]

@[simp] theorem drainStep_cfg (d : Drain) (s : State) : (drainStep d s).cfg = s.cfg :=
  (drainTake_cfg _ _).trans (decodes_querySource d.src s).cfg_eq

/-- No operation writes the configuration, RESET included (R150). -/
theorem exec_cfg {i : Instr} {s t : State} (h : exec i s = .next t) : t.cfg = s.cfg := by
  rcases exec_next h with ⟨_, _, rfl⟩ | ⟨_, h⟩
  · rfl
  · rcases h with ⟨r, hr, rfl⟩ | ⟨v, _, rfl | rfl⟩ | ⟨_, rfl⟩ | ⟨ctx, src, _, h⟩ | ⟨_, rfl⟩ | ⟨_, rfl⟩
    · exact (finish_cfg r).trans hr.cfg_eq
    · rfl
    · exact rbPush_cfg v s
    · exact rbPop_cfg s
    · exact drainEnter_cfg h
    · exact pollStart_cfg s
    · exact getStart_cfg s

/-- R53: the configuration is the same after a step, whichever agent moved. -/
theorem step_cfg {s t : State} (h : step s = .next t) : t.cfg = s.cfg := by
  obtain ⟨_, e, _, h⟩ := step_cases h
  rcases h with ⟨d, _, _, rfl⟩ | ⟨i, e', _, _, h⟩ | ⟨k, o, src, _, _, _, rfl⟩ | ⟨_, _, rfl | rfl⟩ | ⟨x, _, h⟩
    | ⟨p, _, _, rfl⟩ | rfl
  · exact drainStep_cfg d (s.setEnv e)
  · exact (exec_cfg h).trans (State.setEnv_cfg s e')
  · rfl
  · exact pollPop_cfg (s.setEnv e)
  · exact getPop_cfg (s.setEnv e)
  · exact (exec_cfg h).trans (State.setEnv_cfg s e)
  · rfl
  · rfl

/-- A listed attempt to change the configuration is the turn that is taken, and its plan is the refusal (R53). -/
theorem plan_configChange {s : State} {ts : List Turn} (h : s.env.turns = .configChange :: ts) :
    plan s = .answer (.refused .badConfig) := by
  simp [plan, Env.takeTurn, h, planTurn]

/-- Settles O15: `step_cfg` for the steps, and the plan of a `configChange` turn for the attempt. -/
theorem configurationNeverChanges : Obligations.ConfigurationNeverChanges := by
  unfold Obligations.ConfigurationNeverChanges
  refine ⟨fun s t h => step_cfg h, fun s ts hu hc ht => ?_⟩
  rw [step, checked_eq s _ hu hc, plan_configChange ht]
  rfl

end Sys2Proof.Machine
end

section
/-!
PROOFS. The scancode decoder (R55, R56): one equation per byte class, under either ESC bit.
-/

namespace Sys2Proof.Machine

/-- R55: the key number is the low seven bits. -/
theorem keyOf_eq_setWidth (b : Byte) : keyOf b = b.setWidth 7 :=
  (BitVec.setWidth_eq_extractLsb' (by decide)).symm

@[simp] theorem decodeScancode_escPrefix (esc : Bool) : decodeScancode esc escPrefix = .scEscape :=
  if_pos rfl

theorem decodeScancode_of_isRelease {b : Byte} (hne : b ≠ escPrefix) (hr : isRelease b = true) (esc : Bool) :
    decodeScancode esc b = if esc then .scReleaseExt (keyOf b) else .scRelease (keyOf b) := by
  rw [decodeScancode, if_neg hne, if_pos hr]

/-- The prefix byte has bit 7 set, so a byte with bit 7 clear needs no premise against it. -/
theorem ne_escPrefix_of_not_isRelease {b : Byte} (hp : isRelease b = false) : b ≠ escPrefix := by
  rintro rfl
  exact absurd hp (by decide)

theorem decodeScancode_of_not_isRelease {b : Byte} (hp : isRelease b = false) (esc : Bool) :
    decodeScancode esc b = if esc then .scPressExt (keyOf b) else .scPress (keyOf b) := by
  rw [decodeScancode, if_neg (ne_escPrefix_of_not_isRelease hp), if_neg (by simp [hp])]

/-- Settles O4: the prefix, the releases and the presses, each by the decoder's equation for its class. -/
theorem byteClassesInOrder : Obligations.ByteClassesInOrder := by
  unfold Obligations.ByteClassesInOrder
  intro b
  rw [← keyOf_eq_setWidth]
  refine ⟨?_, fun hne hr => ?_, fun hp => ?_⟩
  · rintro rfl esc
    exact decodeScancode_escPrefix esc
  · exact ⟨decodeScancode_of_isRelease hne hr false, decodeScancode_of_isRelease hne hr true⟩
  · exact ⟨decodeScancode_of_not_isRelease hp false, decodeScancode_of_not_isRelease hp true⟩

end Sys2Proof.Machine
end

section
/-!
PROOFS. DECODE runs the class of its byte (R80, R56): the operations of the decoder in a ready state, and the index that
each class looks its tables up with (R58).
-/

namespace Sys2Proof.Machine

/-! The operations in a ready state: no check stops them. -/

section
variable {s : State} (h : ready s = true)
include h

theorem exec_scEscape_eq : exec .scEscape s = .next (finish (escape s)) := operation_eq _ s _ h

theorem exec_scRelease_eq (k : BitVec 7) : exec (.scRelease k) s = .next (finish (release (plainIndex k) s)) :=
  operation_eq _ s _ h

theorem exec_scReleaseExt_eq (k : BitVec 7) : exec (.scReleaseExt k) s = .next (finish (release (extIndex k) s)) :=
  operation_eq _ s _ h

theorem exec_scPress_eq (k : BitVec 7) : exec (.scPress k) s = .next (finish (press (plainIndex k) s)) :=
  operation_eq _ s _ h

theorem exec_scPressExt_eq (k : BitVec 7) :
    exec (.scPressExt k) s = .next (finish (press (extIndex k) (s.setMs (clearEsc s.ms)))) :=
  operation_eq _ s _ h

theorem exec_decode_eq (b : Byte) : exec (.decode b) s = .next (finish (decodeByte b s)) := operation_eq _ s _ h

theorem exec_kbdSource_eq : exec .kbdSource s = .next (finish (kbdSource s)) := operation_eq _ s _ h

end

/-! The index of a byte's class (R58, R80). -/

/-- R22: ESC is bit 6 of `ms`. -/
theorem escPending_eq_getLsbD (ms : BitVec 7) : escPending ms = ms.getLsbD 6 := by
  revert ms; decide

theorem plainIndex_keyOf (b : Byte) : plainIndex (keyOf b) = b &&& 0x7F := by
  revert b; decide

theorem extIndex_keyOf (b : Byte) : extIndex (keyOf b) = b ||| 0x80 := by
  revert b; decide

theorem releaseIndex_of_isRelease {b : Byte} (hr : isRelease b = true) (ms : BitVec 7) :
    releaseIndex ms b = if escPending ms then extIndex (keyOf b) else plainIndex (keyOf b) := by
  have hb : b ||| 0x80 = b := by revert b; decide
  rw [releaseIndex, extIndex_keyOf, plainIndex_keyOf, hb]

theorem pressIndex_of_not_isRelease {b : Byte} (hp : isRelease b = false) (ms : BitVec 7) :
    pressIndex ms b = if escPending ms then extIndex (keyOf b) else plainIndex (keyOf b) := by
  have hb : b &&& 0x7F = b := by revert b; decide
  rw [pressIndex, extIndex_keyOf, plainIndex_keyOf, hb]

/-! DECODE's steps by class (R80). -/

@[simp] theorem decodeByte_escPrefix (s : State) : decodeByte escPrefix s = escape s := if_pos rfl

theorem decodeByte_of_isRelease {b : Byte} (hne : b ≠ escPrefix) (hr : isRelease b = true) (s : State) :
    decodeByte b s = release (if escPending s.ms then extIndex (keyOf b) else plainIndex (keyOf b)) s := by
  rw [decodeByte, if_neg hne, if_pos hr, releaseIndex_of_isRelease hr]

theorem decodeByte_of_not_isRelease {b : Byte} (hp : isRelease b = false) (s : State) :
    decodeByte b s = if escPending s.ms then press (extIndex (keyOf b)) (s.setMs (clearEsc s.ms))
      else press (plainIndex (keyOf b)) s := by
  rw [decodeByte, if_neg (ne_escPrefix_of_not_isRelease hp), if_neg (by simp [hp]), pressIndex_of_not_isRelease hp]
  split <;> rfl

/-- DECODE of a byte is the operation that the scancode decoder reads in it under the state's own ESC bit (R56, R80). -/
theorem exec_decode_eq_exec_class {s : State} (h : ready s = true) (b : Byte) :
    exec (.decode b) s = exec (decodeScancode (s.ms.getLsbD 6) b) s := by
  rw [exec_decode_eq h, ← escPending_eq_getLsbD]
  by_cases hne : b = escPrefix
  · rw [hne, decodeByte_escPrefix, decodeScancode_escPrefix, exec_scEscape_eq h]
  · cases hr : isRelease b with
    | true =>
      rw [decodeByte_of_isRelease hne hr, decodeScancode_of_isRelease hne hr]
      split
      · rw [exec_scReleaseExt_eq h]
      · rw [exec_scRelease_eq h]
    | false =>
      rw [decodeByte_of_not_isRelease hr, decodeScancode_of_not_isRelease hr]
      split
      · rw [exec_scPressExt_eq h]
      · rw [exec_scPress_eq h]

end Sys2Proof.Machine
end

section
/-!
PROOFS. The prefix (R81).
-/

namespace Sys2Proof.Machine

/-- The state the prefix leaves. -/
def prefixed (s : State) : State := { s with ms := s.ms ||| 0x40, result := some (.outcome .ignored) }

theorem ready_prefixed (s : State) : ready (prefixed s) = ready s := rfl

/-- A second prefix finds ESC and the result as it would leave them. -/
theorem prefixed_prefixed (s : State) : prefixed (prefixed s) = prefixed s := by
  simp [prefixed, BitVec.or_assoc]

theorem exec_scEscape_prefixed {s : State} (h : ready s = true) : exec .scEscape s = .next (prefixed s) :=
  exec_scEscape_eq h

theorem exec_decode_escPrefix {s : State} (h : ready s = true) : exec (.decode escPrefix) s = .next (prefixed s) := by
  rw [exec_decode_eq_exec_class h, decodeScancode_escPrefix, exec_scEscape_prefixed h]

theorem execAll_cons_of_next {i : Instr} {s t : State} (h : exec i s = .next t) (is : List Instr) :
    execAll (i :: is) s = execAll is t := by
  rw [execAll, h]

/-- `E0 E0 xx` acts as `E0 xx`, whatever comes after the prefixes (R81). -/
theorem execAll_two_prefixes {s : State} (h : ready s = true) (is : List Instr) :
    execAll (.decode escPrefix :: .decode escPrefix :: is) s = execAll (.decode escPrefix :: is) s := by
  have h' : ready (prefixed s) = true := (ready_prefixed s).trans h
  rw [execAll_cons_of_next (exec_decode_escPrefix h), execAll_cons_of_next (exec_decode_escPrefix h'),
    execAll_cons_of_next (exec_decode_escPrefix h), prefixed_prefixed]

/-- Settles O25: the prefix as a class and as DECODE of 0xE0, and its idempotence. -/
theorem prefixSetsEscape : Obligations.PrefixSetsEscape := by
  unfold Obligations.PrefixSetsEscape
  refine ⟨fun s h => exec_scEscape_prefixed h, fun s h => ?_, fun s k h => execAll_two_prefixes h _⟩
  exact (exec_decode_escPrefix h).trans (exec_scEscape_prefixed h).symm

end Sys2Proof.Machine
end

section
/-!
PROOFS. The releases (R82, R83): the byte `1 ++ K`, and what clearing the bits of a MODMAP entry leaves of `ms`.
-/

namespace Sys2Proof.Machine

/-! The bytes `0 ++ K` and `1 ++ K` (R55). -/

@[simp] theorem keyOf_append (r : BitVec 1) (k : BitVec 7) : keyOf (r ++ k) = k := by
  revert r k; decide

@[simp] theorem isRelease_append (r : BitVec 1) (k : BitVec 7) : isRelease (r ++ k) = r.getLsbD 0 := by
  revert r k; decide

theorem release_byte_ne_escPrefix {k : BitVec 7} (hk : k ≠ 0x60) : 1#1 ++ k ≠ escPrefix := by
  revert k; decide

theorem exec_decode_release_byte {s : State} (h : ready s = true) {k : BitVec 7} (hk : k ≠ 0x60) :
    exec (.decode (1#1 ++ k)) s = exec (if s.ms.getLsbD 6 then .scReleaseExt k else .scRelease k) s := by
  rw [exec_decode_eq_exec_class h, decodeScancode_of_isRelease (release_byte_ne_escPrefix hk) (by simp), keyOf_append]

/-! What a well-formed MODMAP entry can clear (R8). -/

/-- A check of every entry of a table is a check of each entry read. -/
theorem tableRead_of_all {t : Table} {p : Byte → Bool} (h : t.toList.all (fun row => row.toList.all p) = true)
    (i : Byte) : p (tableRead t i) = true := by
  simp only [List.all_eq_true, Vector.mem_toList_iff] at h
  exact h _ (Vector.getElem_mem _) _ (Vector.getElem_mem _)

/-- R8 (1): MODMAP names momentary bits only. -/
theorem modmap_entry_momentary {c : Config} (hc : wfConfig c = true) (i : Byte) :
    tableRead c.modmap i &&& 0xF8 = 0 := by
  simp only [wfConfig, Bool.and_eq_true] at hc
  obtain ⟨⟨hmod, _⟩, _⟩ := hc
  simpa using tableRead_of_all hmod i

theorem ready_wfConfig {s : State} (h : ready s = true) : wfConfig s.cfg = true := by
  simp only [ready, Bool.and_eq_true] at h
  exact h.1.2

/-- An entry of momentary bits only shares no bit with the toggles, so a release leaves them (R82). -/
theorem releaseMs_toggles {e : Byte} (he : e &&& 0xF8 = 0) (ms : BitVec 7) :
    releaseMs e ms &&& 0x38 = ms &&& 0x38 := by
  have hclear : ~~~(e.setWidth 7 ||| msEsc) &&& 0x38 = 0x38 := by revert e; decide
  rw [releaseMs, BitVec.and_assoc, hclear]

/-- With no MODMAP bit a release only clears ESC (R83). -/
theorem releaseMs_zero (ms : BitVec 7) : releaseMs 0 ms = ms &&& 0x3F := by
  revert ms; decide

theorem and_0x3F_of_esc_clear {ms : BitVec 7} (hesc : ms.getLsbD 6 = false) : ms &&& 0x3F = ms := by
  revert ms; decide

/-- Settles O26: DECODE's class, then the effect of a release on `ms`. -/
theorem releaseClearsModifiers : Obligations.ReleaseClearsModifiers := by
  unfold Obligations.ReleaseClearsModifiers
  intro s k h hesc hk
  refine ⟨?_, exec_scRelease_eq h k, releaseMs_toggles (modmap_entry_momentary (ready_wfConfig h) _) _, fun h0 => ?_⟩
  · rw [exec_decode_release_byte h hk, hesc]
    rfl
  · rw [h0]
    exact (releaseMs_zero _).trans (and_0x3F_of_esc_clear hesc)

/-- Settles O27: as the plain release, at the index that its press uses. -/
theorem extendedReleaseClearsModifiers : Obligations.ExtendedReleaseClearsModifiers := by
  unfold Obligations.ExtendedReleaseClearsModifiers
  intro s k h hesc hk
  refine ⟨?_, exec_scReleaseExt_eq h k, ?_, ?_, releaseMs_toggles (modmap_entry_momentary (ready_wfConfig h) _) _,
    fun h0 => ?_⟩
  · rw [exec_decode_release_byte h hk, hesc]
    rfl
  · rw [releaseIndex_of_isRelease (by simp), escPending_eq_getLsbD, hesc, keyOf_append]
    rfl
  · rw [pressIndex_of_not_isRelease (by simp), escPending_eq_getLsbD, hesc, keyOf_append]
    rfl
  · rw [h0]
    exact releaseMs_zero _

end Sys2Proof.Machine
end

section
/-!
PROOFS. KBD_SOURCE (R90): the status read, and only with the data-in-buffer bit set the data read and its decoding.
-/

namespace Sys2Proof.Machine

theorem ready_of_init {s : State} (hu : unmarked s = true) (hc : wfConfig s.cfg = true) (hi : s.init = true) :
    ready s = true := by
  simp [ready, hu, hc, hi]

section
variable {s : State} {st : Byte} {e : Env} (hst : s.env.readKbdStatus s.cfg.kbdDibMask = (st, e))
include hst

theorem kbdSource_of_no_data (hd : st &&& s.cfg.kbdDibMask = 0) : kbdSource s = (some .noEvent, s.setEnv e) := by
  simp only [kbdSource, hst]
  exact if_pos hd

theorem kbdSource_of_data (hd : st &&& s.cfg.kbdDibMask ≠ 0) :
    kbdSource s = decodeByte e.readKbdData.1 (s.setEnv e.readKbdData.2) := by
  simp only [kbdSource, hst]
  exact if_neg hd

end

/-- Settles O34: the guard before RESET, and the two answers of the status read. -/
theorem keyboardSource : Obligations.KeyboardSource := by
  unfold Obligations.KeyboardSource
  intro s hu hc st e
  refine ⟨rfl, fun hi => exec_uninit (by simp) hu hc hi, fun hi hd => ?_, fun hi hd => ?_⟩
  · rw [exec_kbdSource_eq (ready_of_init hu hc hi), kbdSource_of_no_data rfl hd]
    rfl
  · have h := ready_of_init hu hc hi
    have h' : ready (s.setEnv e.readKbdData.2) = true := h
    refine ⟨?_, _, exec_kbdSource_eq h⟩
    rw [exec_kbdSource_eq h, kbdSource_of_data rfl hd]
    exact (exec_decode_eq h' _).symm

end Sys2Proof.Machine
end

section
/-!
PROOFS. The ring buffer (R100, R101, R103, R104, R106): what one push and one pop do, what a sequence of pushes leaves,
and what the pops after it return.
-/

namespace Sys2Proof.Machine

/-! One push (R100). -/

section
variable {s : State} (h : ready s = true)
include h

/-- An admitted push runs (R100, R134). -/
theorem exec_rbPush_admitted (ha : s.drain = none ∨ s.cfg.exclusion = .unprotected) (v : Byte) :
    exec (.rbPush v) s = .next (rbPush v s) := by
  have hadm : (s.drain.isSome && s.cfg.exclusion == .masked) = false := by
    rcases ha with ha | ha <;> simp [ha]
  refine (operation_eq _ s _ h).trans ?_
  rw [hadm]
  rfl

/-- Under `masked` a push that meets a drain is held (R134). -/
theorem exec_rbPush_held (hd : s.drain ≠ none) (hm : s.cfg.exclusion = .masked) (v : Byte) :
    exec (.rbPush v) s = .next s := by
  have hheld : (s.drain.isSome && s.cfg.exclusion == .masked) = true := by
    simp [hm, Option.isSome_iff_ne_none, hd]
  refine (operation_eq _ s _ h).trans ?_
  rw [hheld]
  rfl

theorem exec_rbPop_eq : exec .rbPop s = .next ((rbPop s).2.setResult (some (.popped (rbPop s).1))) :=
  operation_eq _ s _ h

end

@[simp] theorem rbPush_wr (v : Byte) (s : State) : (rbPush v s).wr = s.wr + 1 := rfl

@[simp] theorem rbPush_rd (v : Byte) (s : State) : (rbPush v s).rd = s.rd := rfl

@[simp] theorem rbPush_drain (v : Byte) (s : State) : (rbPush v s).drain = s.drain := rfl

@[simp] theorem ready_rbPush (v : Byte) (s : State) : ready (rbPush v s) = ready s := rfl

theorem lookup_rbPush (v : Byte) (s : State) (a : Fin ringCap) :
    Memory.lookup (rbPush v s).buf a = if a = slotOf s.wr then some v else Memory.lookup s.buf a := by
  simp only [rbPush_eq, lookup_insert, Fin.val_inj]

theorem memRead_rbPush (v : Byte) (s : State) (a : Fin ringCap) :
    memRead (rbPush v s) a = if a = slotOf s.wr then v else memRead s a :=
  memRead_memWrite s (slotOf s.wr) a v

theorem decodeCommand_rbPush (v : Byte) : decodeCommand (0x40#8 ++ v) = .ok (.rbPush v) := by
  revert v; decide

/-- Settles O38: an admitted push is `rbPush`, which writes one slot and the write cursor; a held one changes nothing. -/
theorem pushStoresAndAdvances : Obligations.PushStoresAndAdvances := by
  unfold Obligations.PushStoresAndAdvances
  intro s v hu hc
  refine ⟨decodeCommand_rbPush v, fun hi => exec_uninit (by simp) hu hc hi, fun hi ha => ?_, fun hi hd hm t ht => ?_⟩
  · refine ⟨rbPush v s, exec_rbPush_admitted (ready_of_init hu hc hi) ha v, rfl, BitVec.toNat_add _ _, fun a => ?_⟩
    rw [memRead_rbPush, ← slotOf_val]
    simp only [Fin.val_inj]
  · rw [exec_rbPush_held (ready_of_init hu hc hi) hd hm] at ht
    obtain rfl := Host.Outcome.next.inj ht
    exact ⟨rfl, rfl⟩

/-! One pop (R101). -/

/-- R26: `d = (wr - rd) mod 2^32`. -/
theorem pending_toNat (s : State) : (pending s).toNat = (s.wr.toNat + (2 ^ 32 - s.rd.toNat)) % 2 ^ 32 := by
  rw [pending, BitVec.toNat_sub, Nat.add_comm]

theorem caughtUp_eq_ite_pending (s : State) :
    caughtUp s = if 512 < (pending s).toNat then s.wr - 512 else s.rd := rfl

theorem rbPop_of_empty {s : State} (he : s.wr = s.rd) : rbPop s = (none, s) := if_pos he

theorem rbPop_of_nonempty {s : State} (hne : s.wr ≠ s.rd) :
    rbPop s = (some (memRead s (slotOf (caughtUp s))), s.setRd (caughtUp s + 1)) := if_neg hne

/-- Settles O39: the guard before RESET, then the pop's two cases, with `caughtUp` for the cursor it reads at. -/
theorem popReturnsOldestUnread : Obligations.PopReturnsOldestUnread := by
  unfold Obligations.PopReturnsOldestUnread
  intro s hu hc d from'
  have hfrom : from' = caughtUp s := by
    rw [caughtUp_eq_ite_pending, pending_toNat]
  refine ⟨rfl, fun hi => exec_uninit (by simp) hu hc hi, fun hi he => ?_, fun hi hne => ?_⟩
  · rw [exec_rbPop_eq (ready_of_init hu hc hi), rbPop_of_empty he]
    rfl
  · rw [exec_rbPop_eq (ready_of_init hu hc hi), rbPop_of_nonempty hne, hfrom]
    rfl

/-! The pops of the unread bytes (R103): each pop takes the head of `unreadBytes`. -/

theorem unread_eq_min (s : State) : unread s = min (pending s).toNat 512 := rfl

theorem unread_le_cap (s : State) : unread s ≤ 512 := Nat.min_le_right _ _

theorem unread_eq_zero_iff {s : State} : unread s = 0 ↔ s.wr = s.rd := by
  have hd : unread s = 0 ↔ (pending s).toNat = (0#32).toNat := by
    rw [unread_eq_min, BitVec.toNat_zero]
    omega
  rw [hd, BitVec.toNat_inj, pending]
  exact sub_eq_zero

@[simp] theorem length_unreadBytes (s : State) : (unreadBytes s).length = unread s := by
  simp [unreadBytes]

@[simp] theorem unreadBytes_setResult (s : State) (r : Option Result) :
    unreadBytes (s.setResult r) = unreadBytes s := rfl

/-- After the catch-up the read cursor stands `unread` pushes behind the write cursor (R26, R101). -/
theorem caughtUp_eq_sub_unread (s : State) : caughtUp s = s.wr - BitVec.ofNat 32 (unread s) := by
  rw [caughtUp_eq_ite_pending, unread_eq_min]
  split
  · next h => rw [Nat.min_eq_right h.le]; rfl
  · next h => rw [Nat.min_eq_left (not_lt.mp h), BitVec.ofNat_toNat, BitVec.setWidth_eq, pending, sub_sub_cancel]

/-- R103: a pop takes one of the unread bytes. -/
theorem unread_pop {s : State} (hne : s.wr ≠ s.rd) : unread s = unread (s.setRd (caughtUp s + 1)) + 1 := by
  have hle := unread_le_cap s
  have hpos : unread s ≠ 0 := mt unread_eq_zero_iff.mp hne
  have hpending : pending (s.setRd (caughtUp s + 1)) = BitVec.ofNat 32 (unread s) - 1 := by
    rw [pending, caughtUp_eq_sub_unread, State.setRd_wr, State.setRd_rd]
    ring
  have hsub : (BitVec.ofNat 32 (unread s) - 1).toNat = unread s - 1 := by bv_omega
  rw [unread_eq_min (s.setRd _), hpending, hsub]
  omega

/-- A cursor that a pop has advanced needs no catch-up of its own (R101). -/
theorem caughtUp_pop {s : State} (hne : s.wr ≠ s.rd) : caughtUp (s.setRd (caughtUp s + 1)) = caughtUp s + 1 := by
  have hs := caughtUp_eq_sub_unread s
  rw [unread_pop hne, BitVec.ofNat_add, ← sub_sub, eq_sub_iff_add_eq] at hs
  exact (caughtUp_eq_sub_unread _).trans hs.symm

/-- `unreadBytes` read from the cursor of the next pop on. -/
theorem unreadBytes_eq_map_caughtUp (s : State) :
    unreadBytes s = (List.range (unread s)).map fun j => memRead s (slotOf (caughtUp s + BitVec.ofNat 32 j)) := by
  rw [caughtUp_eq_sub_unread, unreadBytes]

/-- The oldest unread byte stands at the cursor that a pop reads at; a pop leaves the others (R101, R103). -/
theorem unreadBytes_of_nonempty {s : State} (hne : s.wr ≠ s.rd) :
    unreadBytes s = memRead s (slotOf (caughtUp s)) :: unreadBytes (s.setRd (caughtUp s + 1)) := by
  have hcur (j : Nat) : caughtUp s + BitVec.ofNat 32 (j + 1) = caughtUp s + 1 + BitVec.ofNat 32 j := by
    rw [BitVec.ofNat_add, add_assoc, add_comm 1]
    rfl
  rw [unreadBytes_eq_map_caughtUp s, unreadBytes_eq_map_caughtUp (s.setRd _), caughtUp_pop hne, unread_pop hne,
    List.range_succ_eq_map, List.map_cons, List.map_map]
  refine congrArg₂ _ (congrArg _ (congrArg _ (BitVec.add_zero _))) (List.map_congr_left fun j _ => ?_)
  exact congrArg (fun c => memRead s (slotOf c)) (hcur j)

/-! The pops in a row (R103). -/

theorem popResults_succ {s : State} (h : ready s = true) (n : Nat) :
    popResults (n + 1) s
      = some (.popped (rbPop s).1) :: popResults n ((rbPop s).2.setResult (some (.popped (rbPop s).1))) := by
  rw [popResults, exec_rbPop_eq h]
  rfl

theorem popResults_of_empty {s : State} (h : ready s = true) (he : s.wr = s.rd) :
    popResults 1 s = [some (.popped none)] := by
  rw [popResults_succ h, rbPop_of_empty he]
  rfl

/-- R103: from any ready state, pops return the unread bytes, oldest first, and then None. -/
theorem popResults_unreadBytes {s : State} (h : ready s = true) {bs : List Byte} (hbs : unreadBytes s = bs) :
    popResults (bs.length + 1) s = (bs.map fun b => some (.popped (some b))) ++ [some (.popped none)] := by
  induction bs generalizing s with
  | nil =>
    have he : s.wr = s.rd := by
      rw [← unread_eq_zero_iff, ← length_unreadBytes, hbs, List.length_nil]
    exact popResults_of_empty h he
  | cons b bs ih =>
    have hne : s.wr ≠ s.rd := by
      rw [ne_eq, ← unread_eq_zero_iff, ← length_unreadBytes, hbs]
      exact Nat.succ_ne_zero _
    obtain ⟨hb, hrest⟩ := List.cons.inj ((unreadBytes_of_nonempty hne).symm.trans hbs)
    rw [List.length_cons, popResults_succ h, rbPop_of_nonempty hne, hb]
    exact congrArg _ (ih (s := (s.setRd (caughtUp s + 1)).setResult _) h hrest)

/-! The pushes in a row (R104, R106). -/

/-- The state that pushes of the bytes leave, each of them admitted. -/
def pushAll (vs : List Byte) (s : State) : State := vs.foldl (fun t v => rbPush v t) s

@[simp] theorem pushAll_append_singleton (vs : List Byte) (v : Byte) (s : State) :
    pushAll (vs ++ [v]) s = rbPush v (pushAll vs s) := by
  simp [pushAll]

/-- With no drain every push of a sequence is admitted and completes (R105). -/
theorem execAll_rbPush {s : State} (h : ready s = true) (hd : s.drain = none) (vs : List Byte) :
    execAll (vs.map .rbPush) s = .next (pushAll vs s) := by
  induction vs generalizing s with
  | nil => rfl
  | cons v vs ih =>
    rw [List.map_cons, execAll_cons_of_next (exec_rbPush_admitted h (.inl hd) v)]
    exact ih ((ready_rbPush v s).trans h) ((rbPush_drain v s).trans hd)

@[simp] theorem ready_pushAll (vs : List Byte) (s : State) : ready (pushAll vs s) = ready s := by
  induction vs using List.reverseRecOn with
  | nil => rfl
  | append_singleton vs v ih => rw [pushAll_append_singleton, ready_rbPush, ih]

@[simp] theorem pushAll_rd (vs : List Byte) (s : State) : (pushAll vs s).rd = s.rd := by
  induction vs using List.reverseRecOn with
  | nil => rfl
  | append_singleton vs v ih => rw [pushAll_append_singleton, rbPush_rd, ih]

@[simp] theorem pushAll_wr (vs : List Byte) (s : State) :
    (pushAll vs s).wr = s.wr + BitVec.ofNat 32 vs.length := by
  induction vs using List.reverseRecOn with
  | nil => exact (BitVec.add_zero _).symm
  | append_singleton vs v ih =>
    rw [pushAll_append_singleton, rbPush_wr, ih, List.length_append, BitVec.ofNat_add, ← add_assoc]
    rfl

/-- R106: from an empty buffer `d` is the number of pushes modulo 2^32. -/
theorem pending_pushAll {s : State} (he : s.wr = s.rd) (vs : List Byte) :
    (pending (pushAll vs s)).toNat = vs.length % 2 ^ 32 := by
  rw [pending, pushAll_wr, pushAll_rd, he, add_sub_cancel_left, BitVec.toNat_ofNat]

/-- CAP divides 2^32, so the slot ignores the cursor's wrap (R102). -/
theorem slotOf_add_val (c : BitVec 32) (i : Nat) : (slotOf (c + BitVec.ofNat 32 i) : Nat) = (c.toNat + i) % 512 := by
  rw [slotOf_val, BitVec.toNat_add, BitVec.toNat_ofNat]
  omega

/-- Two pushes less than CAP apart write different slots. -/
theorem slotOf_add_ne (c : BitVec 32) {i j : Nat} (hlt : i < j) (hcap : j < i + 512) :
    slotOf (c + BitVec.ofNat 32 i) ≠ slotOf (c + BitVec.ofNat 32 j) := by
  rw [ne_eq, ← Fin.val_inj, slotOf_add_val, slotOf_add_val]
  omega

/-- Any CAP pushes in a row reach every slot. -/
theorem exists_slotOf_add (c : BitVec 32) (m : Nat) (a : Fin ringCap) :
    ∃ i < 512, slotOf (c + BitVec.ofNat 32 (m + i)) = a := by
  have ha : (a : Nat) < 512 := a.isLt
  refine ⟨(a + 511 * (c.toNat + m)) % 512, Nat.mod_lt _ (by decide), ?_⟩
  rw [← Fin.val_inj, slotOf_add_val]
  omega

/-- A push that fewer than CAP pushes followed is still stored, at the slot its cursor named (R100). -/
theorem lookup_pushAll (vs : List Byte) (s : State) (j : Nat) (hj : j < vs.length) (hcap : vs.length ≤ j + 512) :
    Memory.lookup (pushAll vs s).buf (slotOf (s.wr + BitVec.ofNat 32 j)) = some vs[j] := by
  induction vs using List.reverseRecOn with
  | nil => simp at hj
  | append_singleton vs v ih =>
    rw [List.length_append, List.length_singleton] at hj hcap
    rw [pushAll_append_singleton, lookup_rbPush, pushAll_wr]
    obtain hlt | rfl := Nat.lt_succ_iff_lt_or_eq.mp hj
    · rw [if_neg (slotOf_add_ne s.wr hlt (by omega)), ih hlt (by omega), List.getElem_append_left hlt]
    · rw [if_pos rfl, List.getElem_concat_length rfl]

/-- CAP pushes and more leave no slot unwritten. -/
theorem lookup_pushAll_isSome {vs : List Byte} (hcap : 512 ≤ vs.length) (s : State) (a : Fin ringCap) :
    (Memory.lookup (pushAll vs s).buf a).isSome = true := by
  obtain ⟨i, hi, rfl⟩ := exists_slotOf_add s.wr (vs.length - 512) a
  rw [lookup_pushAll vs s _ (by omega) (by omega), Option.isSome_some]

/-- The bytes left unread by pushes, when none from before is among them: the last `unread` pushed (R104, R106). -/
theorem unreadBytes_pushAll {vs : List Byte} {s : State} (hu : unread (pushAll vs s) ≤ vs.length) :
    unreadBytes (pushAll vs s) = vs.drop (vs.length - unread (pushAll vs s)) := by
  have hcap := unread_le_cap (pushAll vs s)
  refine List.ext_getElem (by rw [length_unreadBytes, List.length_drop]; omega) fun j hj _ => ?_
  rw [length_unreadBytes] at hj
  have hcur : (pushAll vs s).wr - BitVec.ofNat 32 (unread (pushAll vs s)) + BitVec.ofNat 32 j
      = s.wr + BitVec.ofNat 32 (vs.length - unread (pushAll vs s) + j) := by
    obtain ⟨m, hm⟩ := Nat.exists_eq_add_of_le' hu
    rw [pushAll_wr, hm, Nat.add_sub_cancel, BitVec.ofNat_add, BitVec.ofNat_add]
    ring
  simp only [unreadBytes, List.getElem_map, List.getElem_range, List.getElem_drop, hcur, memRead]
  rw [lookup_pushAll vs s _ (by omega) (by omega), Option.getD_some]

/-- R106: past 2^32 pushes `d` starts again at 0. -/
theorem pending_pushAll_of_wrap {s : State} (he : s.wr = s.rd) {vs : List Byte} {k : Nat} (hk : k ≤ 512)
    (hlen : vs.length = 2 ^ 32 + k) : (pending (pushAll vs s)).toNat = k := by
  rw [pending_pushAll he, hlen]
  omega

theorem unread_pushAll_of_wrap {s : State} (he : s.wr = s.rd) {vs : List Byte} {k : Nat} (hk : k ≤ 512)
    (hlen : vs.length = 2 ^ 32 + k) : unread (pushAll vs s) = k := by
  rw [unread_eq_min, pending_pushAll_of_wrap he hk hlen, Nat.min_eq_left hk]

/-- Settles O43: `d` counts the pushes modulo 2^32, every slot is written, and the pops return the last `d` bytes. -/
theorem cursorAliasing : Obligations.CursorAliasing := by
  unfold Obligations.CursorAliasing
  intro s vs h hd he
  have hexec := execAll_rbPush h hd vs
  have hready : ready (pushAll vs s) = true := (ready_pushAll vs s).trans h
  refine ⟨⟨_, hexec, pending_pushAll he vs⟩, fun hlen => ?_, fun k _ hk hlen => ?_⟩
  · have hempty : (pushAll vs s).wr = (pushAll vs s).rd :=
      unread_eq_zero_iff.mp (unread_pushAll_of_wrap he (Nat.zero_le _) hlen)
    exact ⟨_, hexec, hempty, lookup_pushAll_isSome (by omega) s, popResults_of_empty hready hempty⟩
  · have hunread := unread_pushAll_of_wrap he hk hlen
    have hbytes : unreadBytes (pushAll vs s) = vs.drop (2 ^ 32) := by
      rw [unreadBytes_pushAll (by omega), hunread, hlen, Nat.add_sub_cancel]
    have hcount : (vs.drop (2 ^ 32)).length = k := by
      rw [List.length_drop, hlen, Nat.add_sub_cancel_left]
    refine ⟨_, hexec, pending_pushAll_of_wrap he hk hlen, ?_⟩
    rw [← hcount]
    exact popResults_unreadBytes hready hbytes

end Sys2Proof.Machine
end

section
/-!
PROOFS. SERIAL_SOURCE (R113): no draw without the port, the data-ready draw, and only with data ready the byte, which
skips the decoder.
-/

namespace Sys2Proof.Machine

theorem exec_serialSource_eq {s : State} (h : ready s = true) :
    exec .serialSource s = .next (finish (serialSource s)) := operation_eq _ s _ h

theorem serialSource_of_absent {s : State} (hs : s.serialExists = false) : serialSource s = (some .noEvent, s) :=
  if_neg (by simp [hs])

section
variable {s : State} {rdy : Bool} {e : Env} (hs : s.serialExists = true) (hr : s.env.readSerReady = (rdy, e))
include hs hr

theorem serialSource_of_not_ready (hd : rdy = false) : serialSource s = (some .noEvent, s.setEnv e) := by
  rw [serialSource, if_pos hs, hr, hd]
  rfl

theorem serialSource_of_ready (hd : rdy = true) :
    serialSource s = (some (outcomeOf e.readSerData.1), s.setEnv e.readSerData.2) := by
  rw [serialSource, if_pos hs, hr, hd]
  rfl

end

/-- Settles O37: the guard before RESET, then the source's three cases, with `outcomeOf` for the byte read. The model's
operation has the name `serialSource` itself. -/
theorem serialSource_spec : Obligations.SerialSource := by
  unfold Obligations.SerialSource
  intro s hu hc rdy v
  refine ⟨rfl, fun hi => exec_uninit (by simp) hu hc hi, fun hi hs => ?_, fun hi hs hd => ?_, fun hi hs hd => ?_⟩
  · rw [exec_serialSource_eq (ready_of_init hu hc hi), serialSource_of_absent hs]
    rfl
  · rw [exec_serialSource_eq (ready_of_init hu hc hi), serialSource_of_not_ready hs rfl hd]
    rfl
  · rw [exec_serialSource_eq (ready_of_init hu hc hi), serialSource_of_ready hs rfl hd]
    rfl

end Sys2Proof.Machine
end

section
/-!
PROOFS. What a step that answers a next state has done: one effect for each agent and operation, from which every
invariant below follows by cases.
-/

namespace Sys2Proof.Machine

/-- The effect of a step from `s` to `t`, with `e` the environment the mover found (R48, R49, R114, R118, R120, R150). -/
inductive StepEffect (s t : State) : Prop
  | environment (e : Env) (prog : s.drain ≠ none → e.prog = s.env.prog) (eq : t = s.setEnv e)
  | latched (p : Bool) (e : Env) (turn : s.env.turns.head? = some (.serialInit p)) (admitted : admitsSerialInit s = true)
      (eq : t = (s.setEnv e).latchSerial p)
  | reset (e : Env) (drain : s.drain = none) (idle : s.cstate = .idle) (uninit : s.init = false)
      (eq : t = resetState (s.setEnv e))
  | decoded (e : Env) (r : Option DecodeOutcome × State) (drain : s.drain = none) (decodes : Decodes (s.setEnv e) r)
      (eq : t = finish r)
  | pushed (v : Byte) (e : Env) (drain : s.drain = none) (idle : s.cstate = .idle) (eq : t = rbPush v (s.setEnv e))
  | popped (e : Env) (drain : s.drain = none)
      (eq : t = (rbPop (s.setEnv e)).2.setResult (some (.popped (rbPop (s.setEnv e)).1)))
  | entered (d : Drain) (e : Env) (drain : s.drain = none) (fits : drainFits d s.cstate)
      (eq : t = (s.setEnv e).setDrain (some d))
  | pollStarted (e : Env) (drain : s.drain = none) (eq : t = pollStart (s.setEnv e))
  | getStarted (e : Env) (drain : s.drain = none) (eq : t = getStart (s.setEnv e))
  | iterated (d : Drain) (e : Env) (drain : s.drain = some d) (prog : e.prog = s.env.prog)
      (eq : t = drainStep d (s.setEnv e))
  | pollPopped (e : Env) (drain : s.drain = none) (eq : t = pollPop (s.setEnv e))
  | getPopped (e : Env) (drain : s.drain = none) (eq : t = getPop (s.setEnv e))

/-- An interrupt's drain is of its own source, whatever the consumer's position (R116, R117). -/
theorem drainFits_irq (x : Source) (c : CState) : drainFits ⟨irqCtx x, x⟩ c := by
  cases x <;> rfl

theorem exec_irqInstr (x : Source) (s : State) :
    exec (irqInstr x) s = operation (irqInstr x) s (drainEnter (irqCtx x) x s) := by
  cases x <;> rfl

/-- What an operation of the idle consumer does (R21, R31). -/
theorem stepEffect_of_exec {i : Instr} {s t : State} {e : Env} (hd : s.drain = none) (hc : s.cstate = .idle)
    (h : exec i (s.setEnv e) = .next t) : StepEffect s t := by
  rcases exec_next h with ⟨_, hi, ht⟩ | ⟨_, ⟨r, hr, ht⟩ | ⟨v, _, ht | ht⟩ | ⟨_, ht⟩ | ⟨ctx, src, hsrc, ht⟩ | ⟨_, ht⟩
    | ⟨_, ht⟩⟩
  · exact .reset e hd hc hi ht
  · exact .decoded e r hd hr ht
  · exact .environment e (absurd hd) ht
  · exact .pushed v e hd hc ht
  · exact .popped e hd ht
  · have hfits : drainFits ⟨ctx, src⟩ s.cstate := by
      rw [hc]
      rcases hsrc with rfl | hsrc | hsrc
      · exact trivial
      · cases hsrc
        exact rfl
      · cases hsrc
        exact rfl
    rw [drainEnter, State.setEnv_drain, hd] at ht
    exact .entered _ e hd hfits (Host.Outcome.next.inj ht).symm
  · exact .pollStarted e hd ht
  · exact .getStarted e hd ht

/-- What the entry of an interrupt does (R116, R117, R134). -/
theorem stepEffect_of_irq {x : Source} {s t : State} {e : Env} (hprog : e.prog = s.env.prog)
    (h : exec (irqInstr x) (s.setEnv e) = .next t) : StepEffect s t := by
  rw [exec_irqInstr] at h
  obtain ⟨_, h⟩ := operation_next h
  rcases drainEnter_cases (irqCtx x) x (s.setEnv e) with ⟨hd, h'⟩ | ⟨_, _, h'⟩ | ⟨d, _, _, h'⟩ <;> rw [h'] at h
  · exact .entered _ e hd (drainFits_irq x _) (Host.Outcome.next.inj h).symm
  · exact .environment e (fun _ => hprog) (Host.Outcome.next.inj h).symm
  · cases h

/-- A drain that the consumer enters inside a poll is the one its phase and order call for (R118, R120). -/
theorem drainFits_poll {c : CState} {k : Fin 3} {o : Order} {src : Source} (hc : c = .poll k o ∨ c = .get k o)
    (hk : (k = 0 ∧ src = o.first) ∨ (k = 1 ∧ src = o.second)) : drainFits ⟨.consumer, src⟩ c := by
  rcases hc with rfl | rfl <;> exact hk

theorem step_effect {s t : State} (h : step s = .next t) : StepEffect s t := by
  obtain ⟨_, e, hprog, h⟩ := step_cases h
  rcases h with ⟨d, hd, _, ht⟩ | ⟨i, e', hd, hc, h⟩ | ⟨k, o, src, hd, hc, hk, ht⟩ | ⟨hd, _, ht | ht⟩ | ⟨x, _, h⟩
    | ⟨p, hturn, ha, ht⟩ | ht
  · exact .iterated d e hd hprog ht
  · exact stepEffect_of_exec hd hc h
  · exact .entered _ e hd (drainFits_poll hc hk) ht
  · exact .pollPopped e hd ht
  · exact .getPopped e hd ht
  · exact stepEffect_of_irq hprog h
  · exact .latched p e hturn ha ht
  · exact .environment e (fun _ => hprog) ht

end Sys2Proof.Machine
end

section
/-!
PROOFS. The invariants of the ring storage (R25, R44), from the four effects that a step has on it.
-/

namespace Sys2Proof.Machine

/-- Settles O54: the canonical form survives each effect of a step on the ring. -/
theorem stepKeepsStorageCanonical : Obligations.StepKeepsStorageCanonical := by
  unfold Obligations.StepKeepsStorageCanonical CanonicalStorage
  intro s t hs h
  cases step_ring h with
  | same hbuf | pop _ hbuf => rwa [hbuf]
  | push v hbuf => rw [hbuf]; exact wf_insert _ _ _ hs
  | reset hbuf => rw [hbuf]; rfl

/-- The count of unread bytes looks at the cursors only (R26). -/
theorem unread_congr {s t : State} (hw : t.wr = s.wr) (hr : t.rd = s.rd) : unread t = unread s := by
  rw [unread, unread, pending, pending, hw, hr]

/-- A push adds at most one unread byte (R26, R103). -/
theorem unread_push_le {s t : State} (hw : t.wr = s.wr + 1) (hr : t.rd = s.rd) : unread t ≤ unread s + 1 := by
  have hd : pending t = pending s + 1 := by rw [pending, pending, hw, hr]; ring
  rw [unread_eq_min, unread_eq_min, hd]
  bv_omega

theorem isSome_lookup_insert {m : Memory} {x y : Nat} {w : Byte} (h : y = x ∨ (Memory.lookup m y).isSome = true) :
    (Memory.lookup (Memory.insert m x w) y).isSome = true := by
  rw [lookup_insert]
  split
  · rfl
  · next hne => exact h.resolve_left hne

theorem sub_ofNat_succ (c : BitVec 32) (n : Nat) : c - BitVec.ofNat 32 (n + 1) = c - 1 - BitVec.ofNat 32 n := by
  rw [BitVec.ofNat_add, sub_sub, add_comm]
  rfl

/-- A push writes the slot of the newest unread byte; the others were unread before (R25, R100). -/
theorem unreadWritten_push {s t : State} {v : Byte} (hs : UnreadWritten s)
    (hb : t.buf = Memory.insert s.buf (slotOf s.wr) v) (hw : t.wr = s.wr + 1) (hr : t.rd = s.rd) : UnreadWritten t := by
  intro j hj
  rw [hb, hw, add_sub_cancel_right]
  apply isSome_lookup_insert
  cases j with
  | zero => exact .inl (by simp)
  | succ j =>
    rw [sub_ofNat_succ]
    exact .inr (hs j (by have := unread_push_le hw hr; omega))

/-- A pop leaves fewer bytes unread, at the slots they had (R101). -/
theorem unreadWritten_pop {s t : State} (hs : UnreadWritten s) (hne : s.wr ≠ s.rd) (hb : t.buf = s.buf)
    (hw : t.wr = s.wr) (hr : t.rd = caughtUp s + 1) : UnreadWritten t := by
  have hu : unread t = unread (s.setRd (caughtUp s + 1)) := unread_congr hw hr
  have hpop := unread_pop hne
  intro j hj
  rw [hb, hw]
  exact hs j (by omega)

theorem unreadWritten_of_empty {t : State} (he : t.wr = t.rd) : UnreadWritten t := by
  intro j hj
  rw [unread_eq_zero_iff.mpr he] at hj
  exact absurd hj (Nat.not_lt_zero j)

/-- The byte that a pop reads is the oldest unread one (R101, R103). -/
theorem caughtUp_eq_oldest {s : State} (hne : s.wr ≠ s.rd) :
    caughtUp s = s.wr - 1 - BitVec.ofNat 32 (unread s - 1) := by
  obtain ⟨n, hn⟩ := Nat.exists_eq_succ_of_ne_zero (mt unread_eq_zero_iff.mp hne)
  rw [caughtUp_eq_sub_unread, hn, Nat.succ_sub_one, sub_ofNat_succ]

/-- Settles O55: by the step's effect on the ring; the slot a pop reads is that of the oldest unread byte. -/
theorem stepKeepsUnreadWritten : Obligations.StepKeepsUnreadWritten := by
  unfold Obligations.StepKeepsUnreadWritten
  refine ⟨fun s t hs h => ?_, fun s hs hne => ?_⟩
  · cases step_ring h with
    | same hb hw hr =>
      intro j hj
      rw [hb, hw]
      exact hs j (unread_congr hw hr ▸ hj)
    | push v hb hw hr => exact unreadWritten_push hs hb hw hr
    | pop hne hb hw hr => exact unreadWritten_pop hs hne hb hw hr
    | reset _ hw hr => exact unreadWritten_of_empty (hw.trans hr.symm)
  · have hpos : unread s ≠ 0 := mt unread_eq_zero_iff.mp hne
    rw [caughtUp_eq_oldest hne]
    exact hs _ (by omega)

end Sys2Proof.Machine
end

section
/-!
PROOFS. The drain in progress (R114, R134, R137): what an iteration leaves alone, and which drain a step leaves.
-/

namespace Sys2Proof.Machine

/-! One iteration. -/

theorem drainExit_frame (owner : Ctx) (s : State) :
    drainExit owner s = { s with drain := none, cstate := (drainExit owner s).cstate } := by
  cases owner <;> rfl

theorem drainExit_cstate_of_irq {owner : Ctx} (h : owner ≠ .consumer) (s : State) :
    (drainExit owner s).cstate = s.cstate := by
  cases owner with
  | consumer => exact absurd rfl h
  | _ => rfl

/-- What an iteration does not write: `rd`, `serial_exists`, the marks but `reset_taken`, the result (R114, R137). -/
theorem drainStep_frame (d : Drain) (s : State) : drainStep d s =
    { s with ms := (drainStep d s).ms, buf := (drainStep d s).buf, wr := (drainStep d s).wr,
             hist := (drainStep d s).hist, resetTaken := (drainStep d s).resetTaken, env := (drainStep d s).env,
             drain := (drainStep d s).drain, cstate := (drainStep d s).cstate } := by
  have hq := (decodes_querySource d.src s).frame
  unfold drainStep
  rcases drainTake_cases d.owner (querySource d.src s) with ⟨_, h⟩ | ⟨c, _, h⟩ | ⟨_, h⟩ <;> rw [h]
  · rw [drainExit_frame, hq]
  · rw [hq]; rfl
  · rw [hq]

/-- An iteration takes no operation from the consumer. -/
theorem drainStep_prog (d : Drain) (s : State) : (drainStep d s).env.prog = s.env.prog := by
  have hq := (decodes_querySource d.src s).prog
  unfold drainStep
  rcases drainTake_cases d.owner (querySource d.src s) with ⟨_, h⟩ | ⟨c, _, h⟩ | ⟨_, h⟩ <;> rw [h]
  · rw [drainExit_frame]; exact hq
  · exact hq
  · exact hq

/-- An iteration ends its drain or leaves it, and the consumer's position with it (R114). -/
theorem drainStep_drain (d : Drain) (s : State) :
    (drainStep d s).drain = none ∨ ((drainStep d s).drain = s.drain ∧ (drainStep d s).cstate = s.cstate) := by
  have hq := (decodes_querySource d.src s).frame
  unfold drainStep
  rcases drainTake_cases d.owner (querySource d.src s) with ⟨_, h⟩ | ⟨c, _, h⟩ | ⟨_, h⟩ <;> rw [h]
  · rw [drainExit_frame]; exact .inl rfl
  · rw [hq]; exact .inr ⟨rfl, rfl⟩
  · rw [hq]; exact .inr ⟨rfl, rfl⟩

/-- An interrupt's drain leaves the consumer's position, at its exit too (R137, R138). -/
theorem drainStep_cstate_of_irq {d : Drain} (ho : d.owner ≠ .consumer) (s : State) :
    (drainStep d s).cstate = s.cstate := by
  have hq : (querySource d.src s).2.cstate = s.cstate := by rw [(decodes_querySource d.src s).frame]
  unfold drainStep
  rcases drainTake_cases d.owner (querySource d.src s) with ⟨_, h⟩ | ⟨c, _, h⟩ | ⟨_, h⟩ <;> rw [h]
  · rw [drainExit_cstate_of_irq ho, hq]
  · exact hq
  · exact hq

/-! The step. -/

/-- While a drain runs, a step is its iteration or the environment's (R114, R133, R134). -/
theorem step_of_drain {s t : State} {d : Drain} (hd : s.drain = some d) (h : step s = .next t) :
    ∃ e : Env, e.prog = s.env.prog ∧ (t = s.setEnv e ∨ t = drainStep d (s.setEnv e)) := by
  have hne : s.drain ≠ none := by simp [hd]
  cases step_effect h with
  | environment e hprog ht => exact ⟨e, hprog hne, .inl ht⟩
  | latched p e _ ha => simp [admitsSerialInit, hd] at ha
  | iterated d' e hd' hprog ht =>
    obtain rfl := Option.some.inj (hd.symm.trans hd')
    exact ⟨e, hprog, .inr ht⟩
  | reset e h0 | decoded e _ h0 | pushed _ e h0 | popped e h0 | entered _ e h0 | pollStarted e h0 | getStarted e h0
    | pollPopped e h0 | getPopped e h0 => exact absurd h0 hne

/-- A drain in progress stays the drain in progress or ends (R134). -/
theorem step_drain_of_drain {s t : State} {d : Drain} (hd : s.drain = some d) (h : step s = .next t) :
    t.drain = s.drain ∨ t.drain = none := by
  obtain ⟨e, _, rfl | rfl⟩ := step_of_drain hd h
  · exact .inl rfl
  · rcases drainStep_drain d (s.setEnv e) with h | ⟨h, _⟩
    · exact .inr h
    · exact .inl h

/-- Settles O20: an iteration of the interrupt's drain, or the environment alone. -/
theorem interruptLeavesConsumerAlone : Obligations.InterruptLeavesConsumerAlone := by
  unfold Obligations.InterruptLeavesConsumerAlone
  intro s t d hd ho h
  have hdrain := step_drain_of_drain hd h
  obtain ⟨e, hprog, rfl | rfl⟩ := step_of_drain hd h
  · exact ⟨rfl, rfl, rfl, rfl, hprog, hdrain⟩
  · have hc := drainStep_cstate_of_irq ho (s.setEnv e)
    have hp := (drainStep_prog d (s.setEnv e)).trans hprog
    refine ⟨?_, hc, ?_, ?_, hp, hdrain⟩ <;> rw [drainStep_frame] <;> rfl

/-! What the other effects leave alone. -/

theorem Decodes.frame_finish {s : State} {r} (h : Decodes s r) : finish r =
    { s with ms := (finish r).ms, hist := (finish r).hist, env := (finish r).env,
             resetTaken := (finish r).resetTaken, result := (finish r).result } := by
  have hr := h.frame
  rcases finish_eq r with h' | ⟨o, _, h'⟩ <;> rw [h', hr]
  rfl

theorem pollPop_frame (s : State) : pollPop s =
    { s with rd := (pollPop s).rd, cstate := .idle, result := (pollPop s).result } := by
  rw [pollPop, rbPop_frame]
  rfl

theorem getPop_frame (s : State) : getPop s =
    { s with rd := (getPop s).rd, cstate := (getPop s).cstate, result := (getPop s).result, env := (getPop s).env } := by
  rcases getPop_cases s with ⟨v, _, _, h⟩ | ⟨_, h⟩ <;> rw [h, rbPop_frame] <;> rfl

/-- Outside its drains a poll writes neither `wr` nor `buf` (R50, R118): a push and RESET are the idle consumer's. -/
theorem step_poll_ring {s t : State} (hd : s.drain = none) (hc : s.cstate ≠ .idle) (h : step s = .next t) :
    t.wr = s.wr ∧ t.buf = s.buf := by
  cases step_effect h with
  | pushed v e _ hidle | reset e _ hidle => exact absurd hidle hc
  | iterated d e hd' => simp [hd] at hd'
  | environment e _ ht | latched _ e _ _ ht | entered _ e _ _ ht | pollStarted e _ ht | getStarted e _ ht =>
    rw [ht]; exact ⟨rfl, rfl⟩
  | decoded e r _ hr ht => rw [ht, hr.frame_finish]; exact ⟨rfl, rfl⟩
  | popped e _ ht => rw [ht, rbPop_frame]; exact ⟨rfl, rfl⟩
  | pollPopped e _ ht => rw [ht, pollPop_frame]; exact ⟨rfl, rfl⟩
  | getPopped e _ ht => rw [ht, getPop_frame]; exact ⟨rfl, rfl⟩

/-- Settles O21: a drain's iteration leaves `rd`, and only the idle consumer's operations and the drains push. -/
theorem singleWriters : Obligations.SingleWriters := by
  unfold Obligations.SingleWriters
  refine fun s t h => ⟨fun hne => ?_, fun hd hc => step_poll_ring hd hc h⟩
  obtain ⟨d, hd⟩ := Option.ne_none_iff_exists'.mp hne
  obtain ⟨e, _, rfl | rfl⟩ := step_of_drain hd h
  · rfl
  · rw [drainStep_frame]
    rfl

/-! The positions of `drain_owner` and `cstate` (R30, R31). -/

theorem positionsAgree_of_no_drain {s : State} (h : s.drain = none) : PositionsAgree s := by
  intro d hd
  rw [h] at hd
  cases hd

theorem PositionsAgree.congr {s t : State} (h : PositionsAgree s) (hd : t.drain = s.drain) (hc : t.cstate = s.cstate) :
    PositionsAgree t := by
  intro d ht
  rw [hc]
  exact h d (hd ▸ ht)

/-- Settles O58: a drain is entered where it fits and ends before the consumer's position moves. -/
theorem stepKeepsPositionsAgreeing : Obligations.StepKeepsPositionsAgreeing := by
  unfold Obligations.StepKeepsPositionsAgreeing
  intro s t hs h
  cases step_effect h with
  | environment e _ ht | latched _ e _ _ ht => rw [ht]; exact hs
  | entered d e _ hfits ht =>
    rw [ht]
    intro d' hd'
    obtain rfl := Option.some.inj hd'
    exact hfits
  | iterated d e _ _ ht =>
    rw [ht]
    rcases drainStep_drain d (s.setEnv e) with hn | ⟨hd, hc⟩
    · exact positionsAgree_of_no_drain hn
    · exact hs.congr hd hc
  | reset e _ _ _ ht => rw [ht]; exact positionsAgree_of_no_drain rfl
  | pushed _ e hd _ ht | pollStarted e hd ht | getStarted e hd ht => rw [ht]; exact positionsAgree_of_no_drain hd
  | decoded e r hd hr ht => rw [ht, hr.frame_finish]; exact positionsAgree_of_no_drain hd
  | popped e hd ht => rw [ht, rbPop_frame]; exact positionsAgree_of_no_drain hd
  | pollPopped e hd ht => rw [ht, pollPop_frame]; exact positionsAgree_of_no_drain hd
  | getPopped e hd ht => rw [ht, getPop_frame]; exact positionsAgree_of_no_drain hd

end Sys2Proof.Machine
end

section
/-!
PROOFS. The last result, the marks and the output history (R28, R29, R32, R33, R89) under a step.
-/

namespace Sys2Proof.Machine

/-! The result (R89, R120). -/

theorem NoZeroDelivered.congr {s t : State} (h : NoZeroDelivered s) (hr : t.result = s.result) : NoZeroDelivered t := by
  rw [NoZeroDelivered, hr]
  exact h

theorem noZeroDelivered_popped {s : State} {r : Option Byte} (h : s.result = some (.popped r)) : NoZeroDelivered s := by
  simp [NoZeroDelivered, h]

theorem Decodes.noZeroDelivered {s : State} {r} (hr : Decodes s r) (hs : NoZeroDelivered s) :
    NoZeroDelivered (finish r) := by
  rcases finish_eq r with h | ⟨o, ho, h⟩ <;> rw [h]
  · exact hs.congr (by rw [hr.frame])
  · have hne : o ≠ .char 0 := fun h0 => hr.not_zero (ho.trans (congrArg some h0))
    simpa [NoZeroDelivered] using hne

theorem noZeroDelivered_getPop {s : State} (hs : NoZeroDelivered s) : NoZeroDelivered (getPop s) := by
  rcases getPop_cases s with ⟨v, _, hv, h⟩ | ⟨_, h⟩ <;> rw [h]
  · simpa [NoZeroDelivered] using hv
  · exact hs.congr (by rw [rbPop_frame]; rfl)

/-- Settles O57: a decoding's outcome is no Char(0), GET_CHAR returns a nonzero byte, and a drain leaves the result. -/
theorem stepKeepsNoZeroDelivered : Obligations.StepKeepsNoZeroDelivered := by
  unfold Obligations.StepKeepsNoZeroDelivered
  intro s t hs h
  cases step_effect h with
  | environment e _ ht | latched _ e _ _ ht | pushed _ e _ _ ht | entered _ e _ _ ht | pollStarted e _ ht
    | getStarted e _ ht => rw [ht]; exact hs
  | reset e _ _ _ ht => simp [ht, NoZeroDelivered, resetState]
  | decoded e r _ hr ht => rw [ht]; exact hr.noZeroDelivered hs
  | popped e _ ht | pollPopped e _ ht => rw [ht]; exact noZeroDelivered_popped rfl
  | iterated d e _ _ ht => rw [ht, drainStep_frame]; exact hs
  | getPopped e _ ht => rw [ht]; exact noZeroDelivered_getPop hs

/-! The fields that only RESET and serial init write (R28, R33), and the marks of R130 and R131. -/

/-- RESET and serial init write the first three, and no next state has a new mark of the last two. -/
structure BootFieldsKept (s t : State) : Prop where
  serialExists : t.serialExists = s.serialExists
  serialDone : t.serialDone = s.serialDone
  init : t.init = s.init
  faulted : t.faulted = s.faulted
  refused : t.refused = s.refused

/-- A step keeps them, or it is the one serial init, or RESET. -/
theorem step_boot {s t : State} (h : step s = .next t) :
    BootFieldsKept s t
      ∨ (∃ p e, s.env.turns.head? = some (.serialInit p) ∧ admitsSerialInit s = true ∧ t = (s.setEnv e).latchSerial p)
      ∨ (s.init = false ∧ ∃ e, t = resetState (s.setEnv e)) := by
  cases step_effect h with
  | latched p e hturn ha ht => exact .inr (.inl ⟨p, e, hturn, ha, ht⟩)
  | reset e _ _ hi ht => exact .inr (.inr ⟨hi, e, ht⟩)
  | environment e _ ht | pushed _ e _ _ ht | entered _ e _ _ ht | pollStarted e _ ht | getStarted e _ ht =>
    rw [ht]; exact .inl ⟨rfl, rfl, rfl, rfl, rfl⟩
  | decoded e r _ hr ht => rw [ht, hr.frame_finish]; exact .inl ⟨rfl, rfl, rfl, rfl, rfl⟩
  | popped e _ ht => rw [ht, rbPop_frame]; exact .inl ⟨rfl, rfl, rfl, rfl, rfl⟩
  | iterated d e _ _ ht => rw [ht, drainStep_frame]; exact .inl ⟨rfl, rfl, rfl, rfl, rfl⟩
  | pollPopped e _ ht => rw [ht, pollPop_frame]; exact .inl ⟨rfl, rfl, rfl, rfl, rfl⟩
  | getPopped e _ ht => rw [ht, getPop_frame]; exact .inl ⟨rfl, rfl, rfl, rfl, rfl⟩

/-! The output history and `reset_taken` (R29, R88, R136). -/

/-- Nothing is written, or exactly the reset write, with which alone the platform may take the reset. -/
def WritesAtMostReset (s t : State) : Prop :=
  (t.hist = s.hist ∧ t.resetTaken = s.resetTaken) ∨ t.hist = s.hist ++ [resetEvent s.cfg]

theorem Decodes.writesAtMostReset {s : State} {r} (h : Decodes s r) : WritesAtMostReset s r.2 := by
  rcases h.taken with ht | ⟨_, _, hh⟩
  · exact h.hist.imp_left fun hh => ⟨hh, ht⟩
  · exact .inr hh

theorem Decodes.writesAtMostReset_finish {s : State} {r} (h : Decodes s r) : WritesAtMostReset s (finish r) := by
  have hr := h.writesAtMostReset
  rcases finish_eq r with h' | ⟨o, _, h'⟩ <;> rw [h'] <;> exact hr

theorem drainStep_writesAtMostReset (d : Drain) (s : State) : WritesAtMostReset s (drainStep d s) := by
  have hq := (decodes_querySource d.src s).writesAtMostReset
  unfold drainStep
  rcases drainTake_cases d.owner (querySource d.src s) with ⟨_, h⟩ | ⟨c, _, h⟩ | ⟨_, h⟩ <;> rw [h]
  · rw [drainExit_frame]; exact hq
  · exact hq
  · exact hq

/-- Every step but RESET writes at most the reset write (R29). -/
theorem step_writes {s t : State} (h : step s = .next t) :
    WritesAtMostReset s t ∨ (s.init = false ∧ t.hist = [] ∧ t.resetTaken = s.resetTaken) := by
  cases step_effect h with
  | reset e _ _ hi ht => rw [ht]; exact .inr ⟨hi, rfl, rfl⟩
  | environment e _ ht | latched _ e _ _ ht | pushed _ e _ _ ht | entered _ e _ _ ht | pollStarted e _ ht
    | getStarted e _ ht => rw [ht]; exact .inl (.inl ⟨rfl, rfl⟩)
  | decoded e r _ hr ht => rw [ht]; exact .inl hr.writesAtMostReset_finish
  | popped e _ ht => rw [ht, rbPop_frame]; exact .inl (.inl ⟨rfl, rfl⟩)
  | iterated d e _ _ ht => rw [ht]; exact .inl (drainStep_writesAtMostReset d (s.setEnv e))
  | pollPopped e _ ht => rw [ht, pollPop_frame]; exact .inl (.inl ⟨rfl, rfl⟩)
  | getPopped e _ ht => rw [ht, getPop_frame]; exact .inl (.inl ⟨rfl, rfl⟩)

/-- Settles O56: what a step writes, with the configuration unchanged. -/
theorem stepKeepsOnlyResetWrites : Obligations.StepKeepsOnlyResetWrites := by
  unfold Obligations.StepKeepsOnlyResetWrites
  refine fun s t h => ⟨fun hs w hw => ?_, fun hi => ?_⟩
  · rw [step_cfg h]
    rcases step_writes h with (⟨hh, _⟩ | hh) | ⟨_, hh, _⟩ <;> rw [hh] at hw
    · exact hs w hw
    · rcases List.mem_append.mp hw with hw | hw
      · exact hs w hw
      · exact List.mem_singleton.mp hw
    · cases hw
  · rcases step_writes h with (⟨hh, _⟩ | hh) | ⟨hi', _⟩
    · exact .inl hh
    · exact .inr hh
    · exact absurd (hi.symm.trans hi') (by decide)

theorem marks_of_unmarked {s : State} (h : unmarked s = true) :
    s.faulted = false ∧ s.refused = false ∧ s.resetTaken = false := by
  simpa [unmarked, and_assoc] using h

/-- Settles O59: the step leaves from an unmarked state; RESET sets init and no other step writes it. -/
theorem stepKeepsRunMarks : Obligations.StepKeepsRunMarks := by
  unfold Obligations.StepKeepsRunMarks
  intro s t h
  obtain ⟨hf, hr, hn⟩ := marks_of_unmarked (step_next h).1
  have hmarks : t.faulted = s.faulted ∧ t.refused = s.refused ∧ (s.init = true → t.init = true) := by
    rcases step_boot h with hk | ⟨p, e, _, _, rfl⟩ | ⟨_, e, rfl⟩
    · exact ⟨hk.faulted, hk.refused, hk.init.trans⟩
    · exact ⟨rfl, rfl, id⟩
    · exact ⟨rfl, rfl, fun _ => rfl⟩
  obtain ⟨htf, htr, hinit⟩ := hmarks
  refine ⟨htf.trans hf, htr.trans hr, hinit, fun ht => ⟨hn, ?_⟩⟩
  rcases step_writes h with (⟨_, hkept⟩ | hh) | ⟨_, _, hkept⟩
  · simp [hkept, hn] at ht
  · exact hh
  · simp [hkept, hn] at ht

end Sys2Proof.Machine
end

section
/-!
PROOFS. The encodings (R55, R56, R58, R59, R64): the fields of a command word, what the decoder makes of each opsel, and
the round trip in both directions.
-/

namespace Sys2Proof.Machine

/-! The fields of a command word (R64). -/

@[simp] theorem opselOf_append (o r : BitVec 4) (b : Byte) : opselOf (o ++ (r ++ b)) = o :=
  BitVec.extractLsb'_append_eq_left

@[simp] theorem rsvOf_append (o r : BitVec 4) (b : Byte) : rsvOf (o ++ (r ++ b)) = r :=
  (BitVec.extractLsb'_append_eq_of_add_le (by decide)).trans BitVec.extractLsb'_append_eq_left

@[simp] theorem operandOf_append (o r : BitVec 4) (b : Byte) : operandOf (o ++ (r ++ b)) = b :=
  (BitVec.extractLsb'_append_eq_of_add_le (by decide)).trans BitVec.extractLsb'_append_eq_right

theorem append_fields (w : CommandWord) : opselOf w ++ (rsvOf w ++ operandOf w) = w := by
  have hlow : rsvOf w ++ operandOf w = w.extractLsb' 0 12 := BitVec.extractLsb'_append_extractLsb'_eq_extractLsb' rfl
  rw [hlow]
  exact (BitVec.extractLsb'_append_extractLsb'_eq_extractLsb' (w := 16) rfl).trans BitVec.extractLsb'_eq_self

theorem command_eq_commandOf {w : CommandWord} (hr : rsvOf w = 0) :
    .command w = commandOf (opselOf w) (operandOf w) := by
  have hw := append_fields w
  rw [hr] at hw
  exact congrArg Encoded.command hw.symm

theorem opselOf_toNat (w : CommandWord) : (opselOf w).toNat = w.toNat / 4096 := by
  have := w.isLt
  rw [opselOf, BitVec.extractLsb'_toNat, Nat.shiftRight_eq_div_pow]
  omega

/-! The three forms of a command word. -/

theorem decodePlain_ok {w : CommandWord} {i j : Instr} :
    decodePlain w i = .ok j ↔ rsvOf w = 0 ∧ operandOf w = 0 ∧ i = j := by
  unfold decodePlain
  split <;> simp_all

theorem decodeOperand_ok {w : CommandWord} {f : Byte → Instr} {j : Instr} :
    decodeOperand w f = .ok j ↔ rsvOf w = 0 ∧ f (operandOf w) = j := by
  unfold decodeOperand
  split <;> simp_all

theorem decodeDrain_ok {w : CommandWord} {j : Instr} :
    decodeDrain w = .ok j ↔ rsvOf w = 0 ∧ ((operandOf w = 0 ∧ j = .drainKbd) ∨ (operandOf w = 1 ∧ j = .drainSer)) := by
  unfold decodeDrain
  split
  · next h => simp [h, eq_comm]
  · split
    · next h => simp [h, eq_comm]
    · next h0 h1 => simp_all

theorem decodePlain_refuses {w : CommandWord} (h : rsvOf w ≠ 0 ∨ operandOf w ≠ 0) (i : Instr) :
    decodePlain w i = .error .badOperand := if_neg (by tauto)

theorem decodeOperand_refuses {w : CommandWord} (h : rsvOf w ≠ 0) (f : Byte → Instr) :
    decodeOperand w f = .error .badOperand := if_neg h

theorem decodeDrain_refuses {w : CommandWord} (h : rsvOf w ≠ 0 ∨ (operandOf w ≠ 0 ∧ operandOf w ≠ 1)) :
    decodeDrain w = .error .badOperand := by
  rw [decodeDrain, if_neg (by tauto), if_neg (by tauto)]

/-! Which form each opsel has (R64). -/

section
variable {w : CommandWord}

theorem decodeCommand_of_opsel_one (h : opselOf w = 1) : decodeCommand w = decodeOperand w .decode := by
  rw [decodeCommand, h]
  rfl

theorem decodeCommand_of_opsel_four (h : opselOf w = 4) : decodeCommand w = decodeOperand w .rbPush := by
  rw [decodeCommand, h]
  rfl

theorem decodeCommand_of_opsel_six (h : opselOf w = 6) : decodeCommand w = decodeDrain w := by
  rw [decodeCommand, h]
  rfl

end

theorem eq_ofNat_of_toNat_eq {n : Nat} {x : BitVec 4} (h : x.toNat = n) : x = BitVec.ofNat 4 n := by
  rw [← h, BitVec.ofNat_toNat, BitVec.setWidth_eq]

/-- `i` is the operation of opsel `o`, which takes no operand. -/
structure IsPlain (o : BitVec 4) (i : Instr) : Prop where
  encode_eq : encode i = commandOf o 0
  not_reserved : o.toNat < 11
  wf : i.wf = true
  readsUnder (esc : Bool) : i.readsUnder esc = true

theorem decodeCommand_cases (w : CommandWord) :
    (11 ≤ (opselOf w).toNat ∧ decodeCommand w = .error .badOpsel)
      ∨ (opselOf w = 1 ∧ decodeCommand w = decodeOperand w .decode)
      ∨ (opselOf w = 4 ∧ decodeCommand w = decodeOperand w .rbPush)
      ∨ (opselOf w = 6 ∧ decodeCommand w = decodeDrain w)
      ∨ ∃ i, IsPlain (opselOf w) i ∧ decodeCommand w = decodePlain w i := by
  generalize hd : decodeCommand w = d
  unfold decodeCommand at hd
  split at hd
  case h_1 ho | h_3 ho | h_4 ho | h_6 ho | h_8 ho | h_9 ho | h_10 ho | h_11 ho =>
    rw [eq_ofNat_of_toNat_eq ho]
    exact .inr (.inr (.inr (.inr ⟨_, ⟨rfl, by decide, rfl, fun _ => rfl⟩, hd.symm⟩)))
  case h_2 ho => exact .inr (.inl ⟨eq_ofNat_of_toNat_eq ho, hd.symm⟩)
  case h_5 ho => exact .inr (.inr (.inl ⟨eq_ofNat_of_toNat_eq ho, hd.symm⟩))
  case h_7 ho => exact .inr (.inr (.inr (.inl ⟨eq_ofNat_of_toNat_eq ho, hd.symm⟩)))
  case h_12 =>
    simp only [imp_false] at *
    exact .inl ⟨by omega, hd.symm⟩

/-- What a command word that decodes tells of its operation (R64). -/
theorem decodeCommand_ok {w : CommandWord} {i : Instr} (h : decodeCommand w = .ok i) :
    encode i = .command w ∧ i.wf = true ∧ ∀ esc, i.readsUnder esc = true := by
  rcases decodeCommand_cases w with ⟨_, hd⟩ | ⟨ho, hd⟩ | ⟨ho, hd⟩ | ⟨ho, hd⟩ | ⟨j, hj, hd⟩ <;> rw [hd] at h
  · cases h
  · obtain ⟨hr, rfl⟩ := decodeOperand_ok.mp h
    rw [command_eq_commandOf hr, ho]
    exact ⟨rfl, rfl, fun _ => rfl⟩
  · obtain ⟨hr, rfl⟩ := decodeOperand_ok.mp h
    rw [command_eq_commandOf hr, ho]
    exact ⟨rfl, rfl, fun _ => rfl⟩
  · obtain ⟨hr, ⟨hb, rfl⟩ | ⟨hb, rfl⟩⟩ := decodeDrain_ok.mp h <;>
      (rw [command_eq_commandOf hr, ho, hb]; exact ⟨rfl, rfl, fun _ => rfl⟩)
  · obtain ⟨hr, hb, rfl⟩ := decodePlain_ok.mp h
    rw [command_eq_commandOf hr, hb]
    exact ⟨hj.encode_eq, hj.wf, hj.readsUnder⟩

/-! The scancodes (R55, R56). -/

theorem append_keyOf_of_isRelease {b : Byte} (h : isRelease b = true) : 1#1 ++ keyOf b = b := by
  revert b; decide

theorem append_keyOf_of_not_isRelease {b : Byte} (h : isRelease b = false) : 0#1 ++ keyOf b = b := by
  revert b; decide

theorem keyOf_ne_prefixKey {b : Byte} (hne : b ≠ escPrefix) (h : isRelease b = true) : keyOf b ≠ prefixKey := by
  intro hk
  rw [← append_keyOf_of_isRelease h, hk] at hne
  exact hne rfl

/-- A byte is the encoding of its class, which is well-formed and read under the ESC bit (R56). -/
theorem encode_decodeScancode (esc : Bool) (b : Byte) :
    encode (decodeScancode esc b) = .scancode b ∧ (decodeScancode esc b).wf = true
      ∧ (decodeScancode esc b).readsUnder esc = true := by
  by_cases hne : b = escPrefix
  · rw [hne, decodeScancode_escPrefix]
    exact ⟨rfl, rfl, rfl⟩
  · cases hr : isRelease b with
    | true =>
      rw [decodeScancode_of_isRelease hne hr]
      have hb : scancodeOf 1#1 (keyOf b) = .scancode b := congrArg _ (append_keyOf_of_isRelease hr)
      have hk : (keyOf b != prefixKey) = true := bne_iff_ne.mpr (keyOf_ne_prefixKey hne hr)
      cases esc <;> exact ⟨hb, hk, rfl⟩
    | false =>
      rw [decodeScancode_of_not_isRelease hr]
      have hb : scancodeOf 0#1 (keyOf b) = .scancode b := congrArg _ (append_keyOf_of_not_isRelease hr)
      cases esc <;> exact ⟨hb, rfl, rfl⟩

/-- Settles O3: a scancode and a command word, each by the inversion of its decoder. -/
theorem encodingIsUnique : Obligations.EncodingIsUnique := by
  unfold Obligations.EncodingIsUnique
  intro esc x i h
  cases x with
  | command w =>
    obtain ⟨hx, hwf, hreads⟩ := decodeCommand_ok h
    exact ⟨hx, hwf, hreads esc⟩
  | scancode b =>
    obtain rfl := Except.ok.inj h
    exact encode_decodeScancode esc b

theorem decodeScancode_release_byte {k : BitVec 7} (hk : k ≠ prefixKey) (esc : Bool) :
    decodeScancode esc (1#1 ++ k) = if esc then .scReleaseExt k else .scRelease k := by
  rw [decodeScancode_of_isRelease (release_byte_ne_escPrefix hk) (by simp), keyOf_append]

theorem decodeScancode_press_byte (k : BitVec 7) (esc : Bool) :
    decodeScancode esc (0#1 ++ k) = if esc then .scPressExt k else .scPress k := by
  rw [decodeScancode_of_not_isRelease (by simp), keyOf_append]

/-- Settles O2: by the operation's row; a class of R56 is read under its own ESC bit only. -/
theorem decodeEncodeRoundTrip : Obligations.DecodeEncodeRoundTrip := by
  unfold Obligations.DecodeEncodeRoundTrip
  intro i esc hwf hreads
  cases i with
  | scEscape => exact congrArg _ (decodeScancode_escPrefix esc)
  | scRelease k =>
    obtain rfl : esc = false := by simpa [Instr.readsUnder] using hreads
    exact congrArg _ (decodeScancode_release_byte (bne_iff_ne.mp hwf) false)
  | scReleaseExt k =>
    obtain rfl : esc = true := hreads
    exact congrArg _ (decodeScancode_release_byte (bne_iff_ne.mp hwf) true)
  | scPress k =>
    obtain rfl : esc = false := by simpa [Instr.readsUnder] using hreads
    exact congrArg _ (decodeScancode_press_byte k false)
  | scPressExt k =>
    obtain rfl : esc = true := hreads
    exact congrArg _ (decodeScancode_press_byte k true)
  | decode b =>
    refine (decodeCommand_of_opsel_one (opselOf_append 1 0 b)).trans ?_
    exact decodeOperand_ok.mpr ⟨rsvOf_append 1 0 b, congrArg _ (operandOf_append 1 0 b)⟩
  | rbPush v =>
    refine (decodeCommand_of_opsel_four (opselOf_append 4 0 v)).trans ?_
    exact decodeOperand_ok.mpr ⟨rsvOf_append 4 0 v, congrArg _ (operandOf_append 4 0 v)⟩
  | reset | kbdSource | serialSource | rbPop | drainKbd | drainSer | kbdIntr | serialIntr | pollChar | getChar => rfl

/-! The refusals (R64, R131). -/

theorem decodeCommand_reserved {w : CommandWord} (h : 11 ≤ (opselOf w).toNat) : decodeCommand w = .error .badOpsel := by
  rcases decodeCommand_cases w with ⟨_, hd⟩ | ⟨ho, _⟩ | ⟨ho, _⟩ | ⟨ho, _⟩ | ⟨i, hi, _⟩
  · exact hd
  · simp [ho] at h
  · simp [ho] at h
  · simp [ho] at h
  · exact absurd hi.not_reserved (not_lt.mpr h)

theorem decodeCommand_of_rsv {w : CommandWord} (hlt : (opselOf w).toNat < 11) (hr : rsvOf w ≠ 0) :
    decodeCommand w = .error .badOperand := by
  rcases decodeCommand_cases w with ⟨hge, _⟩ | ⟨_, hd⟩ | ⟨_, hd⟩ | ⟨_, hd⟩ | ⟨i, _, hd⟩
  · exact absurd hlt (not_lt.mpr hge)
  · rw [hd, decodeOperand_refuses hr]
  · rw [hd, decodeOperand_refuses hr]
  · rw [hd, decodeDrain_refuses (.inl hr)]
  · rw [hd, decodePlain_refuses (.inl hr)]

theorem decodeCommand_of_operand {w : CommandWord} (hlt : (opselOf w).toNat < 11) (h1 : opselOf w ≠ 1)
    (h4 : opselOf w ≠ 4) (h6 : opselOf w ≠ 6) (hb : operandOf w ≠ 0) : decodeCommand w = .error .badOperand := by
  rcases decodeCommand_cases w with ⟨hge, _⟩ | ⟨ho, _⟩ | ⟨ho, _⟩ | ⟨ho, _⟩ | ⟨i, _, hd⟩
  · exact absurd hlt (not_lt.mpr hge)
  · exact absurd ho h1
  · exact absurd ho h4
  · exact absurd ho h6
  · rw [hd, decodePlain_refuses (.inr hb)]

theorem decodeCommand_decode (b : Byte) : decodeCommand (0x10#8 ++ b) = .ok (.decode b) := by
  revert b; decide

/-- Settles O7: the words written out, then each refusal by the opsel it turns on. -/
theorem commandWordRefusals : Obligations.CommandWordRefusals := by
  unfold Obligations.CommandWordRefusals
  refine ⟨rfl, rfl, rfl, rfl, rfl, rfl, rfl, rfl, rfl, rfl, fun b => ⟨decodeCommand_decode b, decodeCommand_rbPush b⟩,
    fun w => ?_⟩
  have ho := opselOf_toNat w
  refine ⟨fun hge => decodeCommand_reserved (by omega), fun hlt hr => decodeCommand_of_rsv (by omega) hr,
    fun hlt h1 h4 h6 hb => decodeCommand_of_operand (by omega) h1 h4 h6 hb, fun h6 h0 h1 => ?_⟩
  rw [decodeCommand_of_opsel_six h6, decodeDrain_refuses (.inr ⟨h0, h1⟩)]

/-- Settles O1: seven table words and two scancodes under a pending prefix, each evaluated. -/
theorem specWordsDecode : Obligations.SpecWordsDecode := by
  unfold Obligations.SpecWordsDecode
  exact ⟨rfl, rfl, rfl, rfl, rfl, rfl, rfl, rfl, rfl⟩

/-! The table index and the table number (R58, R59). -/

/-- Settles O5: the index by the ESC bit, and the byte by its class. -/
theorem tableIndexOfClass : Obligations.TableIndexOfClass := by
  unfold Obligations.TableIndexOfClass
  intro ms b
  rw [← escPending_eq_getLsbD, ← keyOf_eq_setWidth, plainIndex_keyOf, extIndex_keyOf]
  refine ⟨fun hr he => ?_, fun hr he => ?_, fun hp he => ?_, fun hp he => ?_⟩
  · rw [releaseIndex, he]
    exact ⟨rfl, rfl⟩
  · have hb : b ||| 0x80 = b := (extIndex_keyOf b).symm.trans (append_keyOf_of_isRelease hr)
    rw [releaseIndex, he]
    exact ⟨rfl, hb.symm⟩
  · have hb : b &&& 0x7F = b := (plainIndex_keyOf b).symm.trans (append_keyOf_of_not_isRelease hp)
    rw [pressIndex, he]
    exact ⟨rfl, hb.symm⟩
  · rw [pressIndex, he]
    exact ⟨rfl, rfl⟩

/-- R59: CTRL is the high bit of the table number and SHIFT the low one. -/
theorem tableNumber_eq (ms : BitVec 7) :
    tableNumber ms = BitVec.ofBool (ms.getLsbD 1) ++ BitVec.ofBool (ms.getLsbD 0) := by
  revert ms; decide

/-- Settles O6: the four values of the two bits. -/
theorem tableSelectedByCtrlShift : Obligations.TableSelectedByCtrlShift := by
  unfold Obligations.TableSelectedByCtrlShift
  intro c ms
  rw [tableNumber_eq]
  cases ms.getLsbD 1 <;> cases ms.getLsbD 0 <;> rfl

end Sys2Proof.Machine
end

section
/-!
PROOFS. The step boundary (R48, R49, R119): the checks, the turn taken, a turn that is held, and the step of the running
context.
-/

namespace Sys2Proof.Machine

/-! The checks (R131, R132). -/

/-- A marked state answers a stuck fault, which has no code (R32, R130, R131). -/
theorem checked_of_marked {s : State} (h : unmarked s = false) (k) :
    ∃ f, checked s k = .fault f ∧ faultCode f = none := by
  cases hf : s.faulted with
  | true => exact ⟨.stuckFaulted, by simp [checked, hf], rfl⟩
  | false =>
    cases hr : s.refused with
    | true => exact ⟨.stuckRefused, by simp [checked, hf, hr], rfl⟩
    | false =>
      have ht : s.resetTaken = true := by simpa [unmarked, hf, hr] using h
      exact ⟨.stuckReset, by simp [checked, hf, hr, ht], rfl⟩

theorem checked_of_illFormed {s : State} (hu : unmarked s = true) (hc : wfConfig s.cfg = false) (k) :
    checked s k = .refused .badConfig := by
  obtain ⟨hf, hr, ht⟩ := marks_of_unmarked hu
  simp [checked, hf, hr, ht, hc]

/-- Every operation runs behind the checks, RESET included. -/
theorem exec_eq_checked (i : Instr) (s : State) : ∃ k, exec i s = checked s k := by
  cases i <;> exact ⟨_, rfl⟩

/-- Settles O11: the check of the marks comes first, and a stuck fault sets none. -/
theorem markedStateIsStuck : Obligations.MarkedStateIsStuck := by
  unfold Obligations.MarkedStateIsStuck
  intro s h
  obtain ⟨f, hf, hcode⟩ := checked_of_marked h (plan s).run
  refine ⟨f, hf, hcode, ?_⟩
  rw [step, hf, settle, hcode]
  rfl

/-- Settles O14: the check of the configuration comes before the turn and before every operation. -/
theorem illFormedConfigIsRefused : Obligations.IllFormedConfigIsRefused := by
  unfold Obligations.IllFormedConfigIsRefused
  intro s hu hc
  refine ⟨checked_of_illFormed hu hc _, fun i => ?_⟩
  obtain ⟨k, hk⟩ := exec_eq_checked i s
  rw [hk, checked_of_illFormed hu hc]

/-! The faults (R130, R134). -/

/-- What a fault of an unmarked state can be: F_UNINIT, or F_CONCURRENT_DRAIN under `unprotected`. -/
def CodedFault (s : State) (f : Fault) : Prop :=
  (∃ i, f = .uninit i) ∨ (s.cfg.exclusion = .unprotected ∧ ∃ a b, f = .concurrentDrain a b)

theorem CodedFault.hasCode {s : State} {f : Fault} (h : CodedFault s f) : (faultCode f).isSome = true := by
  rcases h with ⟨i, rfl⟩ | ⟨_, a, b, rfl⟩ <;> rfl

theorem CodedFault.of_setEnv {s : State} {e : Env} {f : Fault} (h : CodedFault (s.setEnv e) f) : CodedFault s f := h

theorem checked_fault {s : State} {k} {f : Fault} (h : checked s k = .fault f) :
    (unmarked s = false ∧ faultCode f = none) ∨ k = .fault f := by
  cases hu : unmarked s with
  | false =>
    obtain ⟨g, hg, hcode⟩ := checked_of_marked hu k
    obtain rfl := Host.Outcome.fault.inj (hg.symm.trans h)
    exact .inl ⟨rfl, hcode⟩
  | true =>
    cases hc : wfConfig s.cfg with
    | false => rw [checked_of_illFormed hu hc] at h; cases h
    | true => exact .inr ((checked_eq s k hu hc).symm.trans h)

theorem operation_fault {i : Instr} {s : State} {k} {f : Fault} (hu : unmarked s = true)
    (hk : k = .fault f → CodedFault s f) (h : operation i s k = .fault f) : CodedFault s f := by
  rcases checked_fault h with ⟨hu', _⟩ | h
  · exact absurd (hu.symm.trans hu') (by decide)
  · split at h
    · exact hk h
    · exact .inl ⟨i, (Host.Outcome.fault.inj h).symm⟩

theorem drainEnter_fault {ctx : Ctx} {src : Source} {s : State} {f : Fault} (h : drainEnter ctx src s = .fault f) :
    CodedFault s f := by
  rcases drainEnter_cases ctx src s with ⟨_, h'⟩ | ⟨_, _, h'⟩ | ⟨d, _, hx, h'⟩ <;> rw [h'] at h
  · cases h
  · cases h
  · exact .inr ⟨hx, _, _, (Host.Outcome.fault.inj h).symm⟩

theorem exec_fault {i : Instr} {s : State} {f : Fault} (hu : unmarked s = true) (h : exec i s = .fault f) :
    CodedFault s f := by
  cases i with
  | reset =>
    rcases checked_fault h with ⟨hu', _⟩ | h
    · exact absurd (hu.symm.trans hu') (by decide)
    · split at h <;> cases h
  | drainKbd | drainSer | kbdIntr | serialIntr => exact operation_fault hu drainEnter_fault h
  | _ => exact operation_fault hu (fun hk => by cases hk) h

/-- An answer of a poll or a drain that first asks for init (R33). -/
theorem guarded_fault {s : State} {i : Instr} {k : Host.Outcome State Fault Refusal} {f : Fault}
    (hk : k = .fault f → CodedFault s f) (h : (if s.init then k else .fault (.uninit i)) = .fault f) :
    CodedFault s f := by
  split at h
  · exact hk h
  · exact .inl ⟨i, (Host.Outcome.fault.inj h).symm⟩

theorem fetch_fault {s : State} {f : Fault} (hu : unmarked s = true) (h : (fetch s).run = .fault f) : CodedFault s f := by
  unfold fetch at h
  split at h
  · cases h
  · split at h
    · exact .of_setEnv (exec_fault (by exact hu) h)
    · cases h

theorem contextStep_fault {s : State} {f : Fault} (hu : unmarked s = true) (h : (contextStep s).run = .fault f) :
    CodedFault s f := by
  unfold contextStep at h
  split at h
  · exact guarded_fault (fun hk => by cases hk) h
  · split at h
    · exact fetch_fault hu h
    all_goals
      split at h
      · exact guarded_fault drainEnter_fault h
      · split at h
        · exact guarded_fault drainEnter_fault h
        · exact guarded_fault (fun hk => by cases hk) h

theorem planTurn_fault {u : Turn} {s : State} {f : Fault} (hu : unmarked s = true) (h : (planTurn u s).run = .fault f) :
    CodedFault s f := by
  cases u with
  | go => exact contextStep_fault hu h
  | irq x =>
    simp only [planTurn] at h
    split at h
    · exact exec_fault hu h
    · exact contextStep_fault hu h
  | serialInit p =>
    simp only [planTurn] at h
    split at h
    · cases h
    · exact contextStep_fault hu h
  | kbdBytes bs => cases h
  | serBytes bs => cases h
  | configChange => cases h

/-- A step's fault is a stuck one, of a marked state, or one of the two of R130. -/
theorem step_fault {s : State} {f : Fault} (h : step s = .fault f) :
    (unmarked s = false ∧ faultCode f = none) ∨ CodedFault s f := by
  rcases checked_fault h with hstuck | hplan
  · exact .inl hstuck
  · cases hu : unmarked s with
    | false =>
      obtain ⟨g, hg, hcode⟩ := checked_of_marked hu (plan s).run
      obtain rfl := Host.Outcome.fault.inj (hg.symm.trans h)
      exact .inl ⟨rfl, hcode⟩
    | true => exact .inr (.of_setEnv (planTurn_fault (by exact hu) hplan))

/-- Settles O13: the fault is a coded one, and `settle` sets its mark alone. -/
theorem faultAndRefusalSetOneMark : Obligations.FaultAndRefusalSetOneMark := by
  unfold Obligations.FaultAndRefusalSetOneMark
  intro s hu
  refine ⟨fun f hf => ?_, fun r hr => by rw [hr]; rfl⟩
  rcases step_fault hf with ⟨hu', _⟩ | hcoded
  · exact absurd (hu.symm.trans hu') (by decide)
  · refine ⟨hcoded.hasCode, ?_⟩
    rw [hf, settle, if_pos hcoded.hasCode]

/-- Settles O19: F_CONCURRENT_DRAIN is raised under `unprotected` only; a drain in progress stays or ends. -/
theorem maskedDrainsNeverOverlap : Obligations.MaskedDrainsNeverOverlap := by
  unfold Obligations.MaskedDrainsNeverOverlap
  refine fun s => ⟨fun hm a b hf => ?_, fun d t hd h => ?_⟩
  · rcases step_fault hf with ⟨_, hcode⟩ | ⟨i, hi⟩ | ⟨hx, _⟩
    · cases hcode
    · cases hi
    · cases hm.symm.trans hx
  · rw [← hd]
    exact step_drain_of_drain hd h

/-! The turn (R49, R133). -/

theorem step_eq_run {s : State} (hu : unmarked s = true) (hc : wfConfig s.cfg = true) : step s = (plan s).run :=
  checked_eq s _ hu hc

section
variable {s : State} {u : Turn} {ts : List Turn} (ht : s.env.turns = u :: ts)
include ht

theorem afterTurn_of_turns : afterTurn s = s.setEnv { s.env with turns := ts } := by
  rw [afterTurn, ht, List.tail_cons]

theorem plan_of_turns : plan s = planTurn u (afterTurn s) := by
  rw [plan, Env.takeTurn, ht, afterTurn_of_turns ht]

theorem step_of_turn (hu : unmarked s = true) (hc : wfConfig s.cfg = true) :
    step s = (planTurn u (afterTurn s)).run := by
  rw [step_eq_run hu hc, plan_of_turns ht]

/-- A turn that is held leaves the boundary to the running context (log 9). -/
theorem step_of_held (h : planTurn u (afterTurn s) = contextStep (afterTurn s)) :
    step s = step { s with env := { s.env with turns := .go :: ts } } := by
  have hgo : plan { s with env := { s.env with turns := .go :: ts } } = contextStep (afterTurn s) := by
    rw [plan_of_turns rfl, afterTurn_of_turns ht]
    rfl
  rw [step, step, hgo, plan_of_turns ht, h]
  rfl

end

/-! The step of the idle consumer (R21, R150). -/

theorem contextStep_of_idle {s : State} (hd : s.drain = none) (hc : s.cstate = .idle) : contextStep s = fetch s := by
  rw [contextStep, hd, hc]

theorem fetch_of_ok {s : State} {x : Encoded} {rest : List Encoded} {i : Instr} (hp : s.env.prog = x :: rest)
    (hi : decodeInput (escPending s.ms) x = .ok i) : fetch s = .issue i (s.setEnv { s.env with prog := rest }) := by
  rw [fetch, hp]
  simp only [hi]

theorem fetch_of_error {s : State} {x : Encoded} {rest : List Encoded} {e : DecodeError} (hp : s.env.prog = x :: rest)
    (he : decodeInput (escPending s.ms) x = .error e) : fetch s = .answer (.refused (decodeRefusal e)) := by
  rw [fetch, hp]
  simp only [he]

theorem issues_iff {s : State} :
    issues s = true ↔ s.drain = none ∧ s.cstate = .idle ∧ ∃ ts, s.env.turns = .go :: ts := by
  cases h : s.env.turns <;> simp [issues, h, and_assoc]

/-- A step of the idle consumer whose turn it is. -/
theorem step_of_idle {s : State} {ts : List Turn} (hu : unmarked s = true) (hc : wfConfig s.cfg = true)
    (hd : s.drain = none) (hidle : s.cstate = .idle) (ht : s.env.turns = .go :: ts) :
    step s = (fetch (afterTurn s)).run := by
  rw [step_of_turn ht hu hc]
  exact congrArg Plan.run (contextStep_of_idle hd hidle)

/-- Settles O8: the idle consumer fetches and issues. -/
theorem stepRunsDecodedOperation : Obligations.StepRunsDecodedOperation := by
  unfold Obligations.StepRunsDecodedOperation
  intro s x rest ts i hu hc hd hidle ht hp hi
  rw [← escPending_eq_getLsbD] at hi
  rw [step_of_idle hu hc hd hidle ht, fetch_of_ok (s := afterTurn s) hp hi, afterTurn_of_turns ht]
  rfl

/-- Settles O9: the placed word heads the operations of an idle consumer whose turn it is. -/
theorem fetchedWordIsExecuted : Obligations.FetchedWordIsExecuted := by
  unfold Obligations.FetchedWordIsExecuted
  intro s nbits w i hu hc hi
  exact stepRunsDecodedOperation (s.withFetchWord nbits w) _ s.env.prog s.env.turns i hu hc rfl rfl rfl rfl hi

/-- Settles O10: the fetch answers the refusal, and `settle` sets the mark alone. -/
theorem refusedWordChangesNothing : Obligations.RefusedWordChangesNothing := by
  unfold Obligations.RefusedWordChangesNothing
  intro s w rest e hu hc hissues hp he
  obtain ⟨hd, hidle, ts, ht⟩ := issues_iff.mp hissues
  have hstep : step s = .refused (decodeRefusal e) := by
    rw [step_of_idle hu hc hd hidle ht, fetch_of_error (s := afterTurn s) hp he]
    rfl
  rw [hstep]
  cases e <;> exact ⟨rfl, rfl⟩

/-- Settles O16: the fetch finds no operation. -/
theorem idleBlockWaits : Obligations.IdleBlockWaits := by
  unfold Obligations.IdleBlockWaits
  intro s hu hc hissues hp
  obtain ⟨hd, hidle, ts, ht⟩ := issues_iff.mp hissues
  have hp' : (afterTurn s).env.prog = [] := hp
  rw [step_of_idle hu hc hd hidle ht, fetch, hp']
  rfl

end Sys2Proof.Machine
end

section
/-!
PROOFS. The interrupts (R133, R134) and serial init (R151 step 4): when a turn is admitted, what it then starts, and that
it is held otherwise.
-/

namespace Sys2Proof.Machine

/-! Admission (R133). -/

theorem irqActive_eq_false_iff {s : State} :
    irqActive s = false ↔ s.drainOwner ≠ some .kbdIrq ∧ s.drainOwner ≠ some .serIrq := by
  simp [irqActive]

/-- R133 (a) to (d), as they stand there. -/
theorem admitsIrq_iff {x : Source} {s : State} :
    admitsIrq x s = true ↔ s.init = true ∧ irqEnabled s.cfg x = true ∧ s.drainOwner ≠ some .kbdIrq
      ∧ s.drainOwner ≠ some .serIrq ∧ (s.cfg.exclusion = .masked → s.drain = none) := by
  rw [admitsIrq, Bool.and_eq_true, Bool.and_eq_true, Bool.and_eq_true, Bool.not_eq_true', irqActive_eq_false_iff]
  cases s.cfg.exclusion <;> simp [and_assoc]

theorem irqEnabled_eq (c : Config) (x : Source) :
    irqEnabled c x = match x with | .kbd => c.irqKbdEn | .ser => c.irqSerEn := by
  cases x <;> rfl

theorem planTurn_irq_admitted {x : Source} {s : State} (h : admitsIrq x s = true) :
    planTurn (.irq x) s = .issue (irqInstr x) s := if_pos h

theorem planTurn_irq_held {x : Source} {s : State} (h : ¬ admitsIrq x s = true) :
    planTurn (.irq x) s = contextStep s := if_neg h

/-- Settles O17: the turn of an interrupt by whether it is admitted. -/
theorem interruptAdmission : Obligations.InterruptAdmission := by
  unfold Obligations.InterruptAdmission
  intro s x ts hu hc ht enabled admitted
  have hadm : admitsIrq x (afterTurn s) = true ↔ admitted := by
    rw [admitsIrq_iff, irqEnabled_eq]
    exact Iff.rfl
  refine ⟨fun h => ?_, fun h => step_of_held ht (planTurn_irq_held (mt hadm.mp h))⟩
  rw [step_of_turn ht hu hc, planTurn_irq_admitted (hadm.mpr h)]
  cases x <;> rfl

/-! The exclusion (R134). -/

section
variable {s : State} {d : Drain} (hd : s.drain = some d)
include hd

theorem drainEnter_of_masked (hm : s.cfg.exclusion = .masked) (ctx : Ctx) (src : Source) :
    drainEnter ctx src s = .next s := by
  rw [drainEnter, hd, hm]

theorem drainEnter_of_unprotected (hx : s.cfg.exclusion = .unprotected) (ctx : Ctx) (src : Source) :
    drainEnter ctx src s = .fault (.concurrentDrain d.owner ctx) := by
  rw [drainEnter, hd, hx]

end

/-- The four drain operations are entry steps (R114, R116, R117). -/
theorem exec_drain_entry {s : State} (h : ready s = true) {i : Instr} {ctx : Ctx}
    (hmem : (i, ctx) ∈ [(Instr.drainKbd, Ctx.consumer), (.drainSer, .consumer), (.kbdIntr, .kbdIrq), (.serialIntr, .serIrq)]) :
    ∃ src, exec i s = drainEnter ctx src s := by
  simp only [List.mem_cons, Prod.mk.injEq, List.not_mem_nil, or_false] at hmem
  rcases hmem with ⟨rfl, rfl⟩ | ⟨rfl, rfl⟩ | ⟨rfl, rfl⟩ | ⟨rfl, rfl⟩
  · exact ⟨.kbd, operation_eq _ s _ h⟩
  · exact ⟨.ser, operation_eq _ s _ h⟩
  · exact ⟨.kbd, operation_eq _ s _ h⟩
  · exact ⟨.ser, operation_eq _ s _ h⟩

theorem ready_parts {s : State} (h : ready s = true) : unmarked s = true ∧ wfConfig s.cfg = true ∧ s.init = true := by
  simpa [ready, and_assoc] using h

/-- Under `unprotected` an enabled interrupt is admitted during the consumer's drain (R133). -/
theorem admitsIrq_of_consumer_drain {s : State} {d : Drain} {x : Source} (hi : s.init = true) (hd : s.drain = some d)
    (ho : d.owner = .consumer) (hx : s.cfg.exclusion = .unprotected) (hen : irqEnabled s.cfg x = true) :
    admitsIrq x s = true := by
  simp [admitsIrq_iff, State.drainOwner, hi, hd, ho, hx, hen]

/-- Settles O18: an arriving interrupt by its admission, an entry operation by the exclusion. -/
theorem drainExclusion : Obligations.DrainExclusion := by
  unfold Obligations.DrainExclusion
  intro s d h hd
  obtain ⟨hu, hc, hi⟩ := ready_parts h
  refine ⟨fun x ts ht => ⟨fun hm => step_of_held ht (planTurn_irq_held fun ha => ?_), fun hx ho hen => ?_⟩,
    fun i ctx hmem => ?_⟩
  · obtain ⟨_, _, _, _, hnone⟩ := admitsIrq_iff.mp ha
    cases hd.symm.trans (hnone hm)
  · have ha : admitsIrq x (afterTurn s) = true :=
      admitsIrq_of_consumer_drain hi hd ho hx ((irqEnabled_eq s.cfg x).trans hen)
    have hr : ready (afterTurn s) = true := h
    have hd' : (afterTurn s).drain = some d := hd
    rw [step_of_turn ht hu hc, planTurn_irq_admitted ha, Plan.run, exec_irqInstr, operation_eq _ _ _ hr,
      drainEnter_of_unprotected hd' hx, ho]
    cases x <;> rfl
  · obtain ⟨src, hexec⟩ := exec_drain_entry h hmem
    rw [hexec]
    exact ⟨fun hm => drainEnter_of_masked hd hm ctx src, fun hx => drainEnter_of_unprotected hd hx ctx src⟩

/-! Serial init (R28, R151 step 4). -/

theorem admitsSerialInit_iff {s : State} :
    admitsSerialInit s = true ↔ s.init = true ∧ s.serialDone = false ∧ s.drain = none ∧ s.cstate = .idle := by
  simp [admitsSerialInit, and_assoc]

theorem planTurn_serialInit_admitted {p : Bool} {s : State} (h : admitsSerialInit s = true) :
    planTurn (.serialInit p) s = .answer (.next (s.latchSerial p)) := if_pos h

theorem planTurn_serialInit_held {p : Bool} {s : State} (h : ¬ admitsSerialInit s = true) :
    planTurn (.serialInit p) s = contextStep s := if_neg h

/-- Settles O24: the turn of a serial init by whether it is admitted; and what a step can do to the two fields. -/
theorem serialInitLatchesOnce : Obligations.SerialInitLatchesOnce := by
  unfold Obligations.SerialInitLatchesOnce
  refine ⟨fun s p ts h ht => ?_, fun s t h => ?_⟩
  · obtain ⟨hu, hc, hi⟩ := ready_parts h
    refine ⟨fun hdone hd hidle => ?_, fun hor => step_of_held ht (planTurn_serialInit_held fun ha => ?_)⟩
    · have ha : admitsSerialInit (afterTurn s) = true := admitsSerialInit_iff.mpr ⟨hi, hdone, hd, hidle⟩
      rw [step_of_turn ht hu hc, planTurn_serialInit_admitted ha]
      rfl
    · obtain ⟨_, hdone, hd, hidle⟩ := admitsSerialInit_iff.mp ha
      rcases hor with h' | h' | h'
      · exact absurd (hdone.symm.trans h') (by decide)
      · exact h' hd
      · exact h' hidle
  · rcases step_boot h with hk | ⟨p, e, hturn, ha, rfl⟩ | ⟨hi, e, rfl⟩
    · exact ⟨fun _ => .inl ⟨hk.serialExists, hk.serialDone⟩, fun _ => .inl ⟨hk.serialExists, hk.serialDone⟩⟩
    · obtain ⟨hi, hdone, hd, hidle⟩ := admitsSerialInit_iff.mp ha
      exact ⟨fun _ => .inr ⟨hdone, hd, hidle, rfl, hturn⟩, fun hi' => absurd (hi.symm.trans hi') (by decide)⟩
    · exact ⟨fun hi' => absurd (hi.symm.trans hi') (by decide), fun _ => .inr ⟨rfl, rfl, rfl⟩⟩

end Sys2Proof.Machine
end

section
/-!
PROOFS. RESET and the state it leaves (R34, R150), and the environment's devices and draws (R47, R113, R118, R122, R136).
-/

namespace Sys2Proof.Machine

/-- Settles O22: RESET where the configuration is accepted and init = 0. -/
theorem resetOperation : Obligations.ResetOperation := by
  unfold Obligations.ResetOperation
  intro s hu hc hi
  rw [exec_reset_eq hu hc, hi]
  rfl

/-- Settles O23: each element of the reset state, and RESET at the launch. -/
theorem resetStateValues : Obligations.ResetStateValues := by
  unfold Obligations.ResetStateValues
  refine ⟨rfl, fun _ => rfl, rfl, rfl, rfl, rfl, rfl, rfl, rfl, rfl, rfl, rfl, rfl, ?_⟩
  exact resetOperation State.launch rfl (by decide) rfl

/-- Settles O60: at reset there is no slot, no unread byte, no event, no result and no drain. -/
theorem resetMeetsInvariants : Obligations.ResetMeetsInvariants := by
  unfold Obligations.ResetMeetsInvariants
  refine ⟨wf_reset, unreadWritten_of_empty rfl, fun w hw => ?_, ?_, positionsAgree_of_no_drain rfl, by decide⟩
  · cases hw
  · simp [NoZeroDelivered, State.reset]

/-- Settles O36: each draw by the head of its list. -/
theorem listedDrawsAreTaken : Obligations.ListedDrawsAreTaken := by
  unfold Obligations.ListedDrawsAreTaken
  intro e b bs ds r rs p ps o os mask
  refine ⟨fun h => ?_, fun h => ?_, fun h => ?_, fun h => ?_, fun h => ?_, fun h => ?_⟩
  · rw [Env.readKbdStatus, h]
  · rw [Env.readKbdData, h]
  · rw [Env.readSerReady, h]
  · rw [Env.readSerData, h]
  · rw [Env.takeResponse, h]
  · rw [Env.takeOrder, h]

/-! The queue devices (R122). -/

section
variable {e : Env}

theorem readKbdStatus_of_empty (h : e.kbd = .queue []) (mask : Byte) : e.readKbdStatus mask = (0x00, e) := by
  rw [Env.readKbdStatus, h]

theorem readKbdStatus_of_queue {b : Byte} {q : List Byte} (h : e.kbd = .queue (b :: q)) (mask : Byte) :
    e.readKbdStatus mask = (mask, e) := by
  rw [Env.readKbdStatus, h]

theorem readKbdData_of_queue {b : Byte} {q : List Byte} (h : e.kbd = .queue (b :: q)) :
    e.readKbdData = (b, { e with kbd := .queue q }) := by
  rw [Env.readKbdData, h]

theorem readSerReady_of_empty (h : e.ser = .queue []) : e.readSerReady = (false, e) := by
  rw [Env.readSerReady, h]

theorem readSerReady_of_queue {b : Byte} {q : List Byte} (h : e.ser = .queue (b :: q)) : e.readSerReady = (true, e) := by
  rw [Env.readSerReady, h]

theorem readSerData_of_queue {b : Byte} {q : List Byte} (h : e.ser = .queue (b :: q)) :
    e.readSerData = (b, { e with ser := .queue q }) := by
  rw [Env.readSerData, h]

theorem joinKbd_eq (bs : List Byte) : e.joinKbd bs = { e with kbd := match e.kbd with
    | .queue q => .queue (q ++ bs)
    | .free status data => .free status data } := by
  cases e with
  | mk prog turns kbd => cases kbd <;> rfl

theorem joinSer_eq (bs : List Byte) : e.joinSer bs = { e with ser := match e.ser with
    | .queue q => .queue (q ++ bs)
    | .free rdy data => .free rdy data } := by
  cases e with
  | mk prog turns kbd ser => cases ser <;> rfl

end

/-- Settles O35: the reads of the two queues, and the turns in which bytes join. -/
theorem queueDeviceAnswers : Obligations.QueueDeviceAnswers := by
  unfold Obligations.QueueDeviceAnswers
  refine ⟨fun e mask b q => ⟨fun h => readKbdStatus_of_empty h mask,
    fun h => ⟨readKbdStatus_of_queue h mask, readKbdData_of_queue h⟩, readSerReady_of_empty,
    fun h => ⟨readSerReady_of_queue h, readSerData_of_queue h⟩⟩, fun s bs ts hu hc => ⟨fun ht => ?_, fun ht => ?_⟩⟩
  · rw [step_of_turn ht hu hc, afterTurn_of_turns ht, planTurn, joinKbd_eq]
    rfl
  · rw [step_of_turn ht hu hc, afterTurn_of_turns ht, planTurn, joinSer_eq]
    rfl

end Sys2Proof.Machine
end

section
/-!
PROOFS. The presses (R84 to R89): what a press does to `ms`, bit by bit, and the state it leaves.
-/

namespace Sys2Proof.Machine

/-! The bits that a well-formed entry can have (R8). -/

/-- R8 (2): TOGMAP names toggle bits only. -/
theorem togmap_entry_toggle {c : Config} (hc : wfConfig c = true) (i : Byte) : tableRead c.togmap i &&& 0xC7 = 0 := by
  simp only [wfConfig, Bool.and_eq_true] at hc
  obtain ⟨⟨_, htog⟩, _⟩ := hc
  simpa using tableRead_of_all htog i

theorem getLsbD_of_momentary {e : Byte} (he : e &&& 0xF8 = 0) {j : Nat} (hj : 3 ≤ j) (hj' : j < 8) :
    e.getLsbD j = false := by
  revert e j; decide

theorem getLsbD_of_toggle {e : Byte} (he : e &&& 0xC7 = 0) {j : Nat} (hj : j < 3 ∨ j = 6) : e.getLsbD j = false := by
  have h : ∀ j < 7, (j < 3 ∨ j = 6) → e.getLsbD j = false := by
    clear hj
    revert e
    decide
  exact h j (by omega) hj

/-! The bits of `ms` after a press (R86). -/

theorem pressMs_getLsbD (em et : Byte) (ms : BitVec 7) {j : Nat} (hj : j < 7) :
    (pressMs em et ms).getLsbD j = ((ms.getLsbD j || em.getLsbD j) ^^ et.getLsbD j) := by
  simp [pressMs, hj]

theorem clearEsc_eq_and (ms : BitVec 7) : clearEsc ms = ms &&& 0x3F := rfl

theorem clearEsc_getLsbD {ms : BitVec 7} {j : Nat} (hj : j < 7) :
    (clearEsc ms).getLsbD j = (ms.getLsbD j && decide (j ≠ 6)) := by
  revert ms j; decide

theorem clearEsc_of_esc_clear {ms : BitVec 7} (h : ms.getLsbD 6 = false) : clearEsc ms = ms :=
  and_0x3F_of_esc_clear h

section
variable {em et : Byte} (hm : em &&& 0xF8 = 0) (ht : et &&& 0xC7 = 0) (ms : BitVec 7)

include ht in
theorem pressMs_momentary {j : Nat} (hj : j < 3) : (pressMs em et ms).getLsbD j = (ms.getLsbD j || em.getLsbD j) := by
  rw [pressMs_getLsbD em et ms (by omega), getLsbD_of_toggle ht (.inl hj), Bool.xor_false]

include hm in
theorem pressMs_toggle {j : Nat} (hj : 3 ≤ j) (hj' : j < 6) :
    (pressMs em et ms).getLsbD j = (ms.getLsbD j ^^ et.getLsbD j) := by
  rw [pressMs_getLsbD em et ms (by omega), getLsbD_of_momentary hm hj (by omega), Bool.or_false]

include hm ht in
theorem pressMs_esc : (pressMs em et ms).getLsbD 6 = ms.getLsbD 6 := by
  rw [pressMs_getLsbD em et ms (by omega), getLsbD_of_momentary hm (by omega) (by omega),
    getLsbD_of_toggle ht (.inr rfl), Bool.or_false, Bool.xor_false]

end

/-! The state a press leaves. -/

theorem holds_ctrlAlt (m : BitVec 7) : holds m (msCtrl ||| msAlt) = (m.getLsbD 1 && m.getLsbD 2) := by
  revert m; decide

theorem firesReset_iff {s : State} {idx : Byte} :
    firesReset s idx = true ↔ (pressedMs s idx).getLsbD 1 = true ∧ (pressedMs s idx).getLsbD 2 = true
      ∧ pressedChar s idx = s.cfg.keys.del := by
  rw [firesReset, ctrlAltHeld, holds_ctrlAlt, Bool.and_eq_true, Bool.and_eq_true, beq_iff_eq, and_assoc]

/-- The state that a press leaves when it leaves `m` in `ms` and resolves to `c` (R86 to R89, R136). -/
def pressLeaves (s : State) (m : BitVec 7) (c : Byte) : State :=
  if m.getLsbD 1 = true ∧ m.getLsbD 2 = true ∧ c = s.cfg.keys.del then
    match s.env.takeResponse.1 with
    | .continues =>
      { s with ms := m, hist := s.hist ++ [⟨s.cfg.resetPort, s.cfg.resetValue⟩], env := s.env.takeResponse.2,
               result := some (.outcome .sideEffect) }
    | .resetTaken =>
      { s with ms := m, hist := s.hist ++ [⟨s.cfg.resetPort, s.cfg.resetValue⟩], env := s.env.takeResponse.2,
               resetTaken := true }
  else { s with ms := m, result := some (.outcome (outcomeOf c)) }

theorem finish_press (idx : Byte) (s : State) :
    finish (press idx s) = pressLeaves s (pressedMs s idx) (pressedChar s idx) := by
  unfold press pressLeaves
  by_cases hf : firesReset s idx = true
  · rw [if_pos hf, if_pos (firesReset_iff.mp hf)]
    unfold resetWrite answerReset
    rw [State.setMs_env]
    cases s.env.takeResponse.1 <;> rfl
  · rw [if_neg hf, if_neg (mt firesReset_iff.mpr hf)]
    rfl

theorem pressLeaves_ms (s : State) (m : BitVec 7) (c : Byte) : (pressLeaves s m c).ms = m := by
  unfold pressLeaves
  split
  · split <;> rfl
  · rfl

theorem exec_decode_press_byte {s : State} (h : ready s = true) (k : BitVec 7) :
    exec (.decode (0#1 ++ k)) s = exec (if s.ms.getLsbD 6 then .scPressExt k else .scPress k) s := by
  rw [exec_decode_eq_exec_class h, decodeScancode_press_byte]

/-- Settles O28: DECODE's class, then the state a press leaves at the plain slot. -/
theorem pressEffect : Obligations.PressEffect := by
  unfold Obligations.PressEffect
  intro s k h hesc idx m c
  refine ⟨?_, ?_⟩
  · rw [exec_decode_press_byte h, hesc]
    rfl
  · rw [exec_scPress_eq h, finish_press]
    rfl

/-- Settles O29: as the plain press, at the extended slot of the state with ESC cleared. -/
theorem extendedPressEffect : Obligations.ExtendedPressEffect := by
  unfold Obligations.ExtendedPressEffect
  intro s k h hesc idx m c
  refine ⟨?_, ?_⟩
  · rw [exec_decode_press_byte h, hesc]
    rfl
  · rw [exec_scPressExt_eq h, finish_press]
    rfl

/-- Settles O30: the bits of `ms` after a press, under a well-formed configuration. -/
theorem pressModifierUpdate : Obligations.PressModifierUpdate := by
  unfold Obligations.PressModifierUpdate
  intro s k h
  have hm := modmap_entry_momentary (ready_wfConfig h)
  have ht := togmap_entry_toggle (ready_wfConfig h)
  refine ⟨fun hesc => ⟨_, exec_scPress_eq h k, ?_⟩, fun hesc => ⟨_, exec_scPressExt_eq h k, ?_⟩⟩
  all_goals
    rw [finish_press, pressLeaves_ms]
    refine ⟨fun j hj => ?_, fun j hj hj' => ?_, ?_⟩
  · exact pressMs_momentary (ht _) s.ms hj
  · exact pressMs_toggle (hm _) s.ms hj hj'
  · exact (pressMs_esc (hm _) (ht _) s.ms).trans hesc
  · refine (pressMs_momentary (ht _) (clearEsc s.ms) hj).trans ?_
    rw [clearEsc_getLsbD (by omega), decide_eq_true (by omega), Bool.and_true]
    rfl
  · refine (pressMs_toggle (hm _) (clearEsc s.ms) hj hj').trans ?_
    rw [clearEsc_getLsbD (by omega), decide_eq_true (by omega), Bool.and_true]
    rfl
  · refine (pressMs_esc (hm _) (ht _) (clearEsc s.ms)).trans ?_
    rw [clearEsc_getLsbD (by omega)]
    simp

/-! The case swap (R87). -/

theorem holds_caps (m : BitVec 7) : holds m msCaps = m.getLsbD 3 := by
  revert m; decide

theorem caseSwap_of_no_caps {m : BitVec 7} (h : m.getLsbD 3 = false) (c : Byte) : caseSwap m c = c := by
  rw [caseSwap, holds_caps, h]
  rfl

theorem caseSwap_of_caps {m : BitVec 7} (h : m.getLsbD 3 = true) (c : Byte) :
    caseSwap m c = if 0x61 ≤ c ∧ c ≤ 0x7A then c - 0x20 else if 0x41 ≤ c ∧ c ≤ 0x5A then c + 0x20 else c := by
  rw [caseSwap, holds_caps, h]
  rfl

/-- Settles O31: without CAPSLOCK nothing is swapped; with it the two ranges of letters are. -/
theorem capsLockSwapsLetters : Obligations.CapsLockSwapsLetters := by
  unfold Obligations.CapsLockSwapsLetters
  intro ms c
  refine ⟨fun h => caseSwap_of_no_caps h c, fun h hlo hhi => ?_, fun h hlo hhi => ?_, fun hc => ?_⟩
  · rw [caseSwap_of_caps h, if_pos (by bv_omega)]
    bv_omega
  · rw [caseSwap_of_caps h, if_neg (by bv_omega), if_pos (by bv_omega)]
    bv_omega
  · cases h : ms.getLsbD 3 with
    | false => exact caseSwap_of_no_caps h c
    | true => rw [caseSwap_of_caps h, if_neg (by bv_omega), if_neg (by bv_omega)]

end Sys2Proof.Machine
end

section
/-!
PROOFS. DECODE (R80, R91): the three effects of a byte, and the laws of the decoder, each by cases on them.
-/

namespace Sys2Proof.Machine

/-- Settles O32: DECODE is its class, and no check stops it in a ready state. -/
theorem decodeRunsItsClass : Obligations.DecodeRunsItsClass := by
  unfold Obligations.DecodeRunsItsClass
  intro s b h
  exact ⟨exec_decode_eq_exec_class h b, _, exec_decode_eq h b⟩

/-! The three effects of a byte. -/

/-- `ms` after a press of byte `b`, with ESC cleared first (R84, R85). -/
def pressByteMs (s : State) (b : Byte) : BitVec 7 := pressedMs (s.setMs (clearEsc s.ms)) (pressIndex s.ms b)

/-- The resolved character of a press of byte `b`. -/
def pressByteChar (s : State) (b : Byte) : Byte := pressedChar (s.setMs (clearEsc s.ms)) (pressIndex s.ms b)

/-- The state `t` that byte `b` leaves: the prefix (R81), a release (R82, R83), or a press (R84, R85). -/
inductive DecodeEffect (s : State) (b : Byte) (t : State) : Prop
  | prefixed (byte : b = escPrefix) (eq : t = { s with ms := setEsc s.ms, result := some (.outcome .ignored) })
  | released (e : Byte) (byte : b ≠ escPrefix) (release : isRelease b = true) (momentary : e &&& 0xF8 = 0)
      (eq : t = { s with ms := releaseMs e s.ms, result := some (.outcome .ignored) })
  | pressed (press : isRelease b = false) (eq : t = pressLeaves s (pressByteMs s b) (pressByteChar s b))

/-- A press clears ESC whether or not it was set (R84, R85). -/
theorem decodeByte_press {b : Byte} (hp : isRelease b = false) (s : State) :
    decodeByte b s = press (pressIndex s.ms b) (s.setMs (clearEsc s.ms)) := by
  rw [decodeByte, if_neg (ne_escPrefix_of_not_isRelease hp), if_neg (by simp [hp])]
  split
  · rfl
  · next he =>
    rw [escPending_eq_getLsbD, Bool.not_eq_true] at he
    rw [clearEsc_of_esc_clear he]
    rfl

theorem finish_decodeByte_press {b : Byte} (hp : isRelease b = false) (s : State) :
    finish (decodeByte b s) = pressLeaves s (pressByteMs s b) (pressByteChar s b) := by
  rw [decodeByte_press hp, finish_press]
  rfl

theorem decode_effect {s : State} (hc : wfConfig s.cfg = true) (b : Byte) : DecodeEffect s b (finish (decodeByte b s)) := by
  by_cases hb : b = escPrefix
  · rw [hb, decodeByte_escPrefix]
    exact .prefixed rfl rfl
  · cases hr : isRelease b with
    | true =>
      rw [decodeByte_of_isRelease hb hr]
      exact .released _ hb hr (modmap_entry_momentary hc _) rfl
    | false => exact .pressed hr (finish_decodeByte_press hr s)

theorem pressByteMs_toggle {s : State} (hc : wfConfig s.cfg = true) (b : Byte) {j : Nat} (hj : 3 ≤ j) (hj' : j < 6) :
    (pressByteMs s b).getLsbD j = (s.ms.getLsbD j ^^ (tableRead s.cfg.togmap (pressIndex s.ms b)).getLsbD j) := by
  refine (pressMs_toggle (modmap_entry_momentary hc _) _ hj hj').trans ?_
  rw [State.setMs_ms, clearEsc_getLsbD (by omega), decide_eq_true (by omega), Bool.and_true]
  rfl

theorem pressByteMs_momentary {s : State} (hc : wfConfig s.cfg = true) (b : Byte) {j : Nat} (hj : j < 3) :
    (pressByteMs s b).getLsbD j = (s.ms.getLsbD j || (tableRead s.cfg.modmap (pressIndex s.ms b)).getLsbD j) := by
  refine (pressMs_momentary (togmap_entry_toggle hc _) _ hj).trans ?_
  rw [State.setMs_ms, clearEsc_getLsbD (by omega), decide_eq_true (by omega), Bool.and_true]
  rfl

theorem pressByteMs_esc {s : State} (hc : wfConfig s.cfg = true) (b : Byte) :
    (pressByteMs s b).getLsbD 6 = false := by
  refine (pressMs_esc (modmap_entry_momentary hc _) (togmap_entry_toggle hc _) _).trans ?_
  rw [State.setMs_ms, clearEsc_getLsbD (by omega)]
  simp

/-! Masked comparisons of `ms` (R22), bit by bit. -/

theorem eq_zero_of_bits {x : BitVec 7} (h : ∀ j < 7, x.getLsbD j = false) : x = 0 :=
  BitVec.eq_of_getLsbD_eq fun j hj => by rw [h j hj]; exact (BitVec.getLsbD_zero).symm

theorem getLsbD_0x38 : ∀ j < 7, (0x38 : BitVec 7).getLsbD j = decide (3 ≤ j ∧ j < 6) := by decide
theorem getLsbD_0x07 : ∀ j < 7, (0x07 : BitVec 7).getLsbD j = decide (j < 3) := by decide
theorem getLsbD_0x4F : ∀ j < 7, (0x4F : BitVec 7).getLsbD j = decide (j < 4 ∨ j = 6) := by decide

/-- The toggle bits agree. -/
theorem and_0x38_congr {a b : BitVec 7} (h : ∀ j, 3 ≤ j → j < 6 → a.getLsbD j = b.getLsbD j) :
    a &&& 0x38 = b &&& 0x38 := by
  refine BitVec.eq_of_getLsbD_eq fun j hj => ?_
  rw [BitVec.getLsbD_and, BitVec.getLsbD_and, getLsbD_0x38 j hj]
  by_cases hin : 3 ≤ j ∧ j < 6
  · rw [h j hin.1 hin.2]
  · rw [decide_eq_false hin, Bool.and_false, Bool.and_false]

/-- The momentary bits of `a` are among those of `b`. -/
theorem and_0x07_and_not {a b : BitVec 7} (h : ∀ j < 3, a.getLsbD j = true → b.getLsbD j = true) :
    a &&& 0x07 &&& ~~~b = 0 := by
  refine eq_zero_of_bits fun j hj => ?_
  rw [BitVec.getLsbD_and, BitVec.getLsbD_and, BitVec.getLsbD_not, getLsbD_0x07 j hj]
  by_cases hin : j < 3
  · cases ha : a.getLsbD j with
    | false => rfl
    | true => simp [h j hin ha]
  · simp [hin]

theorem getLsbD_of_and_0x4F {a b : BitVec 7} (h : a &&& 0x4F = b &&& 0x4F) {j : Nat} (hj : j < 4 ∨ j = 6) :
    a.getLsbD j = b.getLsbD j := by
  have hbit := congrArg (BitVec.getLsbD · j) h
  simpa only [BitVec.getLsbD_and, getLsbD_0x4F j (by omega), decide_eq_true hj, Bool.and_true] using hbit

theorem setEsc_getLsbD (ms : BitVec 7) {j : Nat} (hj : j < 7) :
    (setEsc ms).getLsbD j = (ms.getLsbD j || decide (j = 6)) := by
  revert ms j; decide

theorem releaseMs_getLsbD (e : Byte) (ms : BitVec 7) {j : Nat} (h : (releaseMs e ms).getLsbD j = true) :
    ms.getLsbD j = true ∧ j ≠ 6 := by
  rw [releaseMs, BitVec.getLsbD_and, Bool.and_eq_true] at h
  refine ⟨h.1, ?_⟩
  rintro rfl
  simp [msEsc] at h

/-! The laws (R91). -/

section
variable {s t : State} {b : Byte} (h : DecodeEffect s b t)
include h

/-- Law 1. -/
theorem DecodeEffect.ignored (hr : isRelease b = true) :
    t.result = some (.outcome .ignored) ∧ t.hist = s.hist ∧ t.resetTaken = s.resetTaken := by
  cases h with
  | prefixed _ ht | released _ _ _ _ ht => rw [ht]; exact ⟨rfl, rfl, rfl⟩
  | pressed hp => exact absurd (hr.symm.trans hp) (by decide)

/-- Law 2. -/
theorem DecodeEffect.esc (hc : wfConfig s.cfg = true) : t.ms.getLsbD 6 = true ↔ b = escPrefix := by
  cases h with
  | prefixed hb ht =>
    have hset : (setEsc s.ms).getLsbD 6 = true :=
      (setEsc_getLsbD s.ms (by decide)).trans (by simp)
    rw [ht]
    exact iff_of_true hset hb
  | released e hb _ _ ht =>
    rw [ht]
    exact iff_of_false (fun hset => (releaseMs_getLsbD e s.ms hset).2 rfl) hb
  | pressed hp ht =>
    rw [ht, pressLeaves_ms, pressByteMs_esc hc]
    exact iff_of_false (by decide) (ne_escPrefix_of_not_isRelease hp)

/-- Law 3. -/
theorem DecodeEffect.toggles (hc : wfConfig s.cfg = true) (hne : t.ms &&& 0x38 ≠ s.ms &&& 0x38) :
    isRelease b = false ∧ tableRead s.cfg.togmap (pressIndex s.ms b) ≠ 0 := by
  cases h with
  | prefixed _ ht =>
    refine absurd (and_0x38_congr fun j hj hj' => ?_) hne
    rw [ht]
    refine (setEsc_getLsbD s.ms (by omega)).trans ?_
    rw [decide_eq_false (by omega), Bool.or_false]
  | released e _ _ he ht =>
    rw [ht] at hne
    exact absurd (releaseMs_toggles he s.ms) hne
  | pressed hp ht =>
    refine ⟨hp, fun h0 => hne (and_0x38_congr fun j hj hj' => ?_)⟩
    rw [ht, pressLeaves_ms, pressByteMs_toggle hc b hj hj', h0]
    simp

/-- Law 4: no release or prefix sets a momentary bit. -/
theorem DecodeEffect.momentary_not_set (hr : isRelease b = true) : t.ms &&& 0x07 &&& ~~~s.ms = 0 := by
  refine and_0x07_and_not fun j hj hset => ?_
  cases h with
  | prefixed _ ht =>
    rw [ht] at hset
    rw [← hset]
    refine ((setEsc_getLsbD s.ms (by omega)).trans ?_).symm
    rw [decide_eq_false (by omega), Bool.or_false]
  | released e _ _ _ ht =>
    rw [ht] at hset
    exact (releaseMs_getLsbD e s.ms hset).1
  | pressed hp => exact absurd (hr.symm.trans hp) (by decide)

/-- Law 4: no press or prefix clears a momentary bit. -/
theorem DecodeEffect.momentary_not_cleared (hc : wfConfig s.cfg = true) (hb : isRelease b = false ∨ b = escPrefix) :
    s.ms &&& 0x07 &&& ~~~t.ms = 0 := by
  refine and_0x07_and_not fun j hj hset => ?_
  cases h with
  | prefixed _ ht =>
    rw [ht]
    refine (setEsc_getLsbD s.ms (by omega)).trans ?_
    rw [hset, Bool.true_or]
  | released e hne hr _ ht =>
    rcases hb with hb | hb
    · exact absurd (hr.symm.trans hb) (by decide)
    · exact absurd hb hne
  | pressed hp ht => rw [ht, pressLeaves_ms, pressByteMs_momentary hc b hj, hset, Bool.true_or]

end

/-- A press fires the reset condition (R88). -/
def Fires (s : State) (m : BitVec 7) (c : Byte) : Prop :=
  m.getLsbD 1 = true ∧ m.getLsbD 2 = true ∧ c = s.cfg.keys.del

theorem pressLeaves_cases (s : State) (m : BitVec 7) (c : Byte) :
    (¬ Fires s m c ∧ pressLeaves s m c = { s with ms := m, result := some (.outcome (outcomeOf c)) })
      ∨ (Fires s m c ∧ (pressLeaves s m c).hist = s.hist ++ [resetEvent s.cfg]
          ∧ ((pressLeaves s m c).resetTaken = true ∨ (pressLeaves s m c).result = some (.outcome .sideEffect))) := by
  unfold pressLeaves
  split
  · next hf =>
    refine .inr ⟨hf, ?_⟩
    split
    · exact ⟨rfl, .inr rfl⟩
    · exact ⟨rfl, .inl rfl⟩
  · next hf => exact .inl ⟨hf, rfl⟩

theorem outcomeOf_ne_sideEffect (c : Byte) : outcomeOf c ≠ .sideEffect := by
  unfold outcomeOf
  split <;> simp

theorem hist_ne_append (s : State) (w : PortWrite) : s.hist ≠ s.hist ++ [w] := by
  simp

section
variable {s t : State} {b : Byte} (h : DecodeEffect s b t)
include h

/-- Law 6: the write. -/
theorem DecodeEffect.writes_iff :
    t.hist = s.hist ++ [resetEvent s.cfg] ↔ isRelease b = false ∧ Fires s (pressByteMs s b) (pressByteChar s b) := by
  cases hr : isRelease b with
  | true =>
    rw [(h.ignored hr).2.1]
    exact iff_of_false (hist_ne_append s _) (by simp)
  | false =>
    cases h with
    | prefixed hb => exact absurd hb (ne_escPrefix_of_not_isRelease hr)
    | released _ _ hr' => exact absurd (hr.symm.trans hr') (by decide)
    | pressed _ ht =>
      rcases pressLeaves_cases s (pressByteMs s b) (pressByteChar s b) with ⟨hf, hp⟩ | ⟨hf, hh, _⟩
      · rw [ht, hp]
        exact iff_of_false (hist_ne_append s _) (fun hf' => hf hf'.2)
      · rw [ht]
        exact iff_of_true hh ⟨rfl, hf⟩

/-- Law 6: the outcome SideEffect comes with the write, unless the platform took the reset. -/
theorem DecodeEffect.sideEffect_iff (hn : t.resetTaken = false) :
    t.result = some (.outcome .sideEffect) ↔ t.hist = s.hist ++ [resetEvent s.cfg] := by
  cases h with
  | prefixed _ ht | released _ _ _ _ ht =>
    rw [ht]
    exact iff_of_false (by simp) (hist_ne_append s _)
  | pressed _ ht =>
    rcases pressLeaves_cases s (pressByteMs s b) (pressByteChar s b) with ⟨_, hp⟩ | ⟨_, hh, hr | hr⟩
    · rw [ht, hp]
      exact iff_of_false (by simpa using outcomeOf_ne_sideEffect _) (hist_ne_append s _)
    · rw [ht, hr] at hn
      cases hn
    · rw [ht]
      exact iff_of_true hr hh

/-- Law 5. -/
theorem DecodeEffect.result_ne_char_zero (hn : t.resetTaken = false) : t.result ≠ some (.outcome (.char 0)) := by
  cases h with
  | prefixed _ ht | released _ _ _ _ ht => rw [ht]; simp
  | pressed _ ht =>
    rcases pressLeaves_cases s (pressByteMs s b) (pressByteChar s b) with ⟨_, hp⟩ | ⟨_, _, hr | hr⟩
    · rw [ht, hp]
      simpa using outcomeOf_ne_zero _
    · rw [ht, hr] at hn
      cases hn
    · rw [ht, hr]
      simp

end

/-! Law 7: NUMLOCK and SCROLLLOCK, bits 4 and 5, do not affect an outcome. -/

theorem tableNumber_congr {m m' : BitVec 7} (h : ∀ j < 4, m.getLsbD j = m'.getLsbD j) : tableNumber m = tableNumber m' := by
  rw [tableNumber_eq, tableNumber_eq, h 0 (by decide), h 1 (by decide)]

theorem caseSwap_congr {m m' : BitVec 7} (h : m.getLsbD 3 = m'.getLsbD 3) (c : Byte) : caseSwap m c = caseSwap m' c := by
  rw [caseSwap, caseSwap, holds_caps, holds_caps, h]

/-- What a press delivers, writes and draws depends on CTRL, ALT and the resolved character. -/
theorem pressLeaves_congr {s : State} {m₀ m m' : BitVec 7} {c : Byte} (h : ∀ j < 4, m'.getLsbD j = m.getLsbD j) :
    (pressLeaves { s with ms := m₀ } m' c).result = (pressLeaves s m c).result
      ∧ (pressLeaves { s with ms := m₀ } m' c).hist = (pressLeaves s m c).hist
      ∧ (pressLeaves { s with ms := m₀ } m' c).resetTaken = (pressLeaves s m c).resetTaken := by
  unfold pressLeaves
  rw [h 1 (by decide), h 2 (by decide)]
  split
  · cases s.env.takeResponse.1 <;> exact ⟨rfl, rfl, rfl⟩
  · exact ⟨rfl, rfl, rfl⟩

theorem pressIndex_congr {m m' : BitVec 7} (h : m'.getLsbD 6 = m.getLsbD 6) (b : Byte) :
    pressIndex m' b = pressIndex m b := by
  rw [pressIndex, pressIndex, escPending_eq_getLsbD, escPending_eq_getLsbD, h]

/-- A press reads ESC and bits 0 to 3 of `ms` into bits 0 to 3. -/
theorem pressByteMs_congr {s : State} {m : BitVec 7} (b : Byte) (h : ∀ j, j < 4 ∨ j = 6 → m.getLsbD j = s.ms.getLsbD j)
    {j : Nat} (hj : j < 4) : (pressByteMs { s with ms := m } b).getLsbD j = (pressByteMs s b).getLsbD j := by
  unfold pressByteMs
  rw [pressIndex_congr (h 6 (.inr rfl)) b]
  unfold pressedMs
  rw [pressMs_getLsbD _ _ _ (by omega), pressMs_getLsbD _ _ _ (by omega), State.setMs_ms, State.setMs_ms,
    clearEsc_getLsbD (by omega), clearEsc_getLsbD (by omega), h j (.inl hj)]
  rfl

theorem pressByteChar_eq (s : State) (b : Byte) : pressByteChar s b =
    caseSwap (pressByteMs s b) (tableRead (charTable s.cfg (tableNumber (pressByteMs s b))) (pressIndex s.ms b)) := rfl

theorem pressByteChar_congr {s : State} {m : BitVec 7} (b : Byte)
    (h : ∀ j, j < 4 ∨ j = 6 → m.getLsbD j = s.ms.getLsbD j) :
    pressByteChar { s with ms := m } b = pressByteChar s b := by
  have hbits : ∀ j < 4, (pressByteMs { s with ms := m } b).getLsbD j = (pressByteMs s b).getLsbD j :=
    fun j hj => pressByteMs_congr b h hj
  rw [pressByteChar_eq, pressByteChar_eq, tableNumber_congr hbits, caseSwap_congr (hbits 3 (by decide)),
    pressIndex_congr (h 6 (.inr rfl)) b]

theorem finish_decodeByte_locks {s : State} (hc : wfConfig s.cfg = true) (b : Byte) {m : BitVec 7}
    (hm : m &&& 0x4F = s.ms &&& 0x4F) :
    (finish (decodeByte b { s with ms := m })).result = (finish (decodeByte b s)).result
      ∧ (finish (decodeByte b { s with ms := m })).hist = (finish (decodeByte b s)).hist
      ∧ (finish (decodeByte b { s with ms := m })).resetTaken = (finish (decodeByte b s)).resetTaken := by
  cases hr : isRelease b with
  | true =>
    obtain ⟨h1, h2, h3⟩ := (decode_effect hc b).ignored hr
    obtain ⟨h1', h2', h3'⟩ := (decode_effect (s := { s with ms := m }) hc b).ignored hr
    exact ⟨h1'.trans h1.symm, h2'.trans h2.symm, h3'.trans h3.symm⟩
  | false =>
    have hbits : ∀ j, j < 4 ∨ j = 6 → m.getLsbD j = s.ms.getLsbD j := fun j hj => getLsbD_of_and_0x4F hm hj
    rw [finish_decodeByte_press hr, finish_decodeByte_press hr, pressByteChar_congr b hbits]
    exact pressLeaves_congr fun j hj => pressByteMs_congr b hbits hj

/-! Law 8: the ring buffer is neither read nor written. -/

/-- The state with another ring buffer. -/
def withRing (s : State) (q : Memory) (w r : BitVec 32) : State := { s with buf := q, wr := w, rd := r }

section
variable (s : State) (q : Memory) (w r : BitVec 32)

theorem press_withRing (idx : Byte) :
    press idx (withRing s q w r) = ((press idx s).1, withRing (press idx s).2 q w r) := by
  unfold press
  rw [show firesReset (withRing s q w r) idx = firesReset s idx from rfl]
  split
  · unfold resetWrite answerReset
    rw [show ((withRing s q w r).setMs (pressedMs (withRing s q w r) idx)).env = s.env from rfl, State.setMs_env]
    cases s.env.takeResponse.1 <;> rfl
  · rfl

theorem decodeByte_withRing (b : Byte) :
    decodeByte b (withRing s q w r) = ((decodeByte b s).1, withRing (decodeByte b s).2 q w r) := by
  by_cases hb : b = escPrefix
  · rw [hb, decodeByte_escPrefix, decodeByte_escPrefix]
    rfl
  · cases hr : isRelease b with
    | true =>
      rw [decodeByte_of_isRelease hb hr, decodeByte_of_isRelease hb hr]
      rfl
    | false =>
      rw [decodeByte_press hr, decodeByte_press hr]
      exact press_withRing (s.setMs (clearEsc s.ms)) q w r _

theorem finish_decodeByte_withRing (b : Byte) :
    finish (decodeByte b (withRing s q w r)) = withRing (finish (decodeByte b s)) q w r := by
  rw [decodeByte_withRing, finish, finish]
  cases (decodeByte b s).1 <;> rfl

end

/-- Settles O33: the eight laws in order, for the state that the byte leaves. -/
theorem lawsOfTheDecoder : Obligations.LawsOfTheDecoder := by
  unfold Obligations.LawsOfTheDecoder
  intro s b h
  have hc := ready_wfConfig h
  have heff := decode_effect hc b
  obtain ⟨hbuf, hwr, hrd⟩ := finish_ring (decodeByte b s)
  obtain ⟨hbuf', hwr', hrd'⟩ := (decodes_decodeByte b s).ring
  refine ⟨_, exec_decode_eq h b, fun hr => ⟨(heff.ignored hr).1, (heff.ignored hr).2.1⟩, heff.esc hc, heff.toggles hc,
    heff.momentary_not_set, heff.momentary_not_cleared hc, heff.result_ne_char_zero, ?_, heff.sideEffect_iff,
    fun m hm => ⟨_, exec_decode_eq (s := { s with ms := m }) h b, finish_decodeByte_locks hc b hm⟩, fun q w r => ?_,
    hbuf.trans hbuf', hwr.trans hwr', hrd.trans hrd'⟩
  · refine heff.writes_iff.trans (and_congr_right fun hp => ?_)
    rw [finish_decodeByte_press hp, pressLeaves_ms]
    exact Iff.rfl
  · rw [exec_decode_eq (s := { s with buf := q, wr := w, rd := r }) h b]
    exact congrArg _ (finish_decodeByte_withRing s q w r b)

end Sys2Proof.Machine
end

section
/-!
PROOFS. The ring buffer as a queue (R102, R103, R104): the slot of a cursor that wraps, the pops of the unread bytes, and
one push and one pop on the queue that the buffer stands for.
-/

namespace Sys2Proof.Machine

/-! Pops in a row (R103). -/

/-- A shorter run of pops is the beginning of a longer one. -/
theorem popResults_eq_take {n m : Nat} (hnm : n ≤ m) (s : State) : popResults n s = (popResults m s).take n := by
  induction n generalizing m s with
  | zero => rfl
  | succ n ih =>
    obtain ⟨m, rfl⟩ := Nat.exists_eq_succ_of_ne_zero (n := m) (by omega)
    rw [popResults, popResults]
    cases exec .rbPop s with
    | next t => exact congrArg _ (ih (by omega) t)
    | fault f => rfl
    | refused r => rfl

/-- Settles O41: the pops of the unread bytes, and the prefixes of that run. -/
theorem unreadCountBoundsPops : Obligations.UnreadCountBoundsPops := by
  unfold Obligations.UnreadCountBoundsPops
  intro s h
  have hpops := popResults_unreadBytes h rfl
  rw [length_unreadBytes] at hpops
  refine ⟨unread_le_cap s, fun n hn => ⟨(unreadBytes s).take n, ?_, ?_⟩, unreadBytes s, length_unreadBytes s, hpops⟩
  · rw [List.length_take, length_unreadBytes, Nat.min_eq_left hn]
  · rw [popResults_eq_take (Nat.le_succ_of_le hn) s, hpops, List.map_take,
      List.take_append_of_le_length (by simpa using hn)]

/-! Pushes in a row from an empty buffer (R104). -/

theorem newest_eq_drop (vs : List Byte) : newest vs = vs.drop (vs.length - 512) := rfl

theorem length_newest (vs : List Byte) : (newest vs).length = min vs.length 512 := by
  rw [newest_eq_drop, List.length_drop]
  omega

theorem newest_of_le {vs : List Byte} (h : vs.length ≤ 512) : newest vs = vs := by
  rw [newest_eq_drop, Nat.sub_eq_zero_of_le h, List.drop_zero]

theorem unreadBytes_pushAll_of_empty {s : State} {vs : List Byte} (he : s.wr = s.rd) (hlen : vs.length < 2 ^ 32) :
    unreadBytes (pushAll vs s) = newest vs := by
  have hu : unread (pushAll vs s) = min vs.length 512 := by
    rw [unread_eq_min, pending_pushAll he, Nat.mod_eq_of_lt hlen]
  have hdrop : vs.length - min vs.length 512 = vs.length - 512 := by omega
  rw [unreadBytes_pushAll (by omega), hu, hdrop, newest_eq_drop]

/-- Settles O42: the unread bytes after the pushes are the newest of them, and the pops return these. -/
theorem popsReturnPushesInOrder : Obligations.PopsReturnPushesInOrder := by
  unfold Obligations.PopsReturnPushesInOrder
  intro s vs h hd he hlen
  have hready : ready (pushAll vs s) = true := (ready_pushAll vs s).trans h
  refine ⟨_, execAll_rbPush h hd vs, popResults_unreadBytes hready (unreadBytes_pushAll_of_empty he hlen), newest_of_le,
    fun hcap => ?_⟩
  rw [length_newest]
  omega

/-! The wrap of a cursor (R102). -/

theorem slotOf_succ (x : BitVec 32) : (slotOf (x + 1) : Nat) = ((slotOf x : Nat) + 1) % 512 := by
  rw [slotOf_val x, Nat.mod_add_mod]
  exact slotOf_add_val x 1

/-- The slots after the three pushes of R102's example. -/
theorem memRead_wrap_example {s : State} (hw : s.wr = 4294967294) (a : Fin ringCap) :
    memRead (pushAll [0x41, 0x42, 0x43] s) a =
      if (a : Nat) = 510 then 0x41 else if (a : Nat) = 511 then 0x42 else if (a : Nat) = 0 then 0x43
        else memRead s a := by
  have hpush : pushAll [0x41, 0x42, 0x43] s = rbPush 0x43 (rbPush 0x42 (rbPush 0x41 s)) := rfl
  have h0 : a = slotOf (s.wr + 1 + 1) ↔ (a : Nat) = 0 := by rw [hw]; exact Fin.ext_iff
  have h511 : a = slotOf (s.wr + 1) ↔ (a : Nat) = 511 := by rw [hw]; exact Fin.ext_iff
  have h510 : a = slotOf s.wr ↔ (a : Nat) = 510 := by rw [hw]; exact Fin.ext_iff
  simp only [hpush, memRead_rbPush, rbPush_wr, h0, h511, h510]
  by_cases hz : (a : Nat) = 0
  · simp [hz]
  · by_cases hl : (a : Nat) = 511 <;> simp [hz, hl]

/-- Settles O40: the slot of the next cursor, and the example as pushes from an empty buffer. -/
theorem slotsContinueAcrossWrap : Obligations.SlotsContinueAcrossWrap := by
  unfold Obligations.SlotsContinueAcrossWrap
  refine ⟨slotOf_succ, fun s h hd hw hr => ?_⟩
  have he : s.wr = s.rd := hw.trans hr.symm
  have hready : ready (pushAll [0x41, 0x42, 0x43] s) = true := (ready_pushAll _ s).trans h
  have hbytes : unreadBytes (pushAll [0x41, 0x42, 0x43] s) = [0x41, 0x42, 0x43] :=
    (unreadBytes_pushAll_of_empty he (by decide)).trans (newest_of_le (by decide))
  refine ⟨_, execAll_rbPush h hd [0x41, 0x42, 0x43], ?_, ?_, memRead_wrap_example hw,
    popResults_unreadBytes hready hbytes⟩
  · rw [pushAll_wr, hw]
    rfl
  · rw [pushAll_wr, pushAll_rd, hw, hr]
    rfl

/-! One push and one pop on the queue (R100, R101, R104). -/

theorem getElem_unreadBytes {s : State} {j : Nat} (hj : j < (unreadBytes s).length) :
    (unreadBytes s)[j] = memRead s (slotOf (s.wr - BitVec.ofNat 32 (unread s) + BitVec.ofNat 32 j)) := by
  simp [unreadBytes]

/-- A push that does not make the cursors meet adds a byte, up to CAP (R103, R106). -/
theorem unread_rbPush {s : State} (hd : (pending s).toNat ≠ 2 ^ 32 - 1) (v : Byte) :
    unread (rbPush v s) = min (unread s + 1) 512 := by
  have hp : pending (rbPush v s) = pending s + 1 := by rw [pending, pending, rbPush_wr, rbPush_rd]; ring
  rw [unread_eq_min, unread_eq_min, hp]
  bv_omega

/-- A slot of an unread byte that stays unread is not the one a push writes. -/
theorem memRead_rbPush_unread {s : State} {i : Nat} (hi : i < unread s) (hcap : unread s < i + 512) (v : Byte) :
    memRead (rbPush v s) (slotOf (s.wr - BitVec.ofNat 32 (unread s) + BitVec.ofNat 32 i))
      = memRead s (slotOf (s.wr - BitVec.ofNat 32 (unread s) + BitVec.ofNat 32 i)) := by
  have hne := slotOf_add_ne (s.wr - BitVec.ofNat 32 (unread s)) hi hcap
  rw [sub_add_cancel] at hne
  rw [memRead_rbPush, if_neg hne]

theorem unreadBytes_rbPush {s : State} (hd : (pending s).toNat ≠ 2 ^ 32 - 1) (v : Byte) :
    unreadBytes (rbPush v s) = newest (unreadBytes s ++ [v]) := by
  have hu := unread_rbPush hd v
  have hle := unread_le_cap s
  have hlen : (unreadBytes s ++ [v]).length = unread s + 1 := by simp
  refine List.ext_getElem (by rw [length_unreadBytes, length_newest, hlen, hu]) fun j hj _ => ?_
  rw [length_unreadBytes] at hj
  obtain ⟨k, hk⟩ : ∃ k, unread s + 1 = unread (rbPush v s) + k := Nat.exists_eq_add_of_le (by omega)
  have hcur : s.wr + 1 - BitVec.ofNat 32 (unread (rbPush v s)) + BitVec.ofNat 32 j
      = s.wr - BitVec.ofNat 32 (unread s) + BitVec.ofNat 32 (k + j) := by
    have hk' : BitVec.ofNat 32 (unread s) + 1 = BitVec.ofNat 32 (unread (rbPush v s)) + BitVec.ofNat 32 k := by
      rw [← BitVec.ofNat_add, ← hk, BitVec.ofNat_add]
      rfl
    rw [BitVec.ofNat_add]
    linear_combination hk'
  have hnewest : newest (unreadBytes s ++ [v]) = (unreadBytes s ++ [v]).drop k := by
    rw [newest_eq_drop, hlen, show unread s + 1 - 512 = k by omega]
  simp only [hnewest, List.getElem_drop]
  rw [getElem_unreadBytes, rbPush_wr, hcur]
  obtain hlt | hge := Nat.lt_or_ge (k + j) (unread s)
  · rw [List.getElem_append_left (by simpa using hlt), getElem_unreadBytes]
    exact memRead_rbPush_unread hlt (by omega) v
  · have hlast : k + j = unread s := by omega
    simp [hlast, memRead_rbPush]

theorem unreadBytes_of_empty {s : State} (he : s.wr = s.rd) : unreadBytes s = [] := by
  rw [← List.length_eq_zero_iff, length_unreadBytes, unread_eq_zero_iff.mpr he]

theorem rbPop_fst (s : State) : (rbPop s).1 = (unreadBytes s).head? := by
  by_cases he : s.wr = s.rd
  · rw [rbPop_of_empty he, unreadBytes_of_empty he]
    rfl
  · rw [rbPop_of_nonempty he, unreadBytes_of_nonempty he]
    rfl

theorem unreadBytes_rbPop (s : State) : unreadBytes (rbPop s).2 = (unreadBytes s).tail := by
  by_cases he : s.wr = s.rd
  · rw [rbPop_of_empty he, unreadBytes_of_empty he]
    rfl
  · rw [rbPop_of_nonempty he, unreadBytes_of_nonempty he]
    rfl

/-- Settles O44: a push appends, a pop takes the head. -/
theorem ringRefinesQueue : Obligations.RingRefinesQueue := by
  unfold Obligations.RingRefinesQueue
  intro s h hd
  refine ⟨fun v hne => ⟨_, exec_rbPush_admitted h (.inl hd) v, unreadBytes_rbPush hne v⟩, _, exec_rbPop_eq h, ?_, ?_⟩
  · rw [State.setResult_result, rbPop_fst]
  · rw [unreadBytes_setResult, unreadBytes_rbPop]

end Sys2Proof.Machine
end

section
/-!
PROOFS. Dispatch (R114 to R120): the entry of a drain, one iteration, and the consumer's steps inside a poll.
-/

namespace Sys2Proof.Machine

/-! The entry of a drain (R114, R116, R117). -/

theorem drainEnter_of_none {s : State} (hd : s.drain = none) (ctx : Ctx) (src : Source) :
    drainEnter ctx src s = .next (s.setDrain (some ⟨ctx, src⟩)) := by
  rw [drainEnter, hd]

/-- Settles O45: the entry step of each of the four operations. -/
theorem drainEntryStarts : Obligations.DrainEntryStarts := by
  unfold Obligations.DrainEntryStarts
  intro s h hd
  have hentry := drainEnter_of_none hd
  exact ⟨(operation_eq _ s _ h).trans (hentry _ _), (operation_eq _ s _ h).trans (hentry _ _),
    (operation_eq _ s _ h).trans (hentry _ _), (operation_eq _ s _ h).trans (hentry _ _)⟩

/-! The start of a poll (R118, R120). -/

theorem takeOrder_of_cons {e : Env} {o : Order} {os : List Order} (h : e.orders = o :: os) :
    e.takeOrder = (o, { e with orders := os }) := by
  rw [Env.takeOrder, h]

theorem takeOrder_of_nil {e : Env} (h : e.orders = []) : ∃ o, e.takeOrder = (o, { e with draws := e.draws + 1 }) := by
  rw [Env.takeOrder, h]
  exact ⟨_, rfl⟩

section
variable {s : State} (h : ready s = true)
include h

theorem exec_pollChar_eq : exec .pollChar s = .next (pollStart s) := operation_eq _ s _ h

theorem exec_getChar_eq : exec .getChar s = .next (getStart s) := operation_eq _ s _ h

/-- Both starts take the same draw. -/
theorem exec_poll_of_takeOrder {o : Order} {e : Env} (ho : s.env.takeOrder = (o, e)) :
    exec .pollChar s = .next { s with env := e, cstate := .poll 0 o }
      ∧ exec .getChar s = .next { s with env := e, cstate := .get 0 o } := by
  rw [exec_pollChar_eq h, exec_getChar_eq h, pollStart, getStart, ho]
  exact ⟨rfl, rfl⟩

end

/-- Settles O47: the draw of the order, listed or free. -/
theorem pollAndGetStart : Obligations.PollAndGetStart := by
  unfold Obligations.PollAndGetStart
  intro s h
  refine ⟨fun o os ho => exec_poll_of_takeOrder h (takeOrder_of_cons ho), fun ho => ?_⟩
  obtain ⟨o, ho⟩ := takeOrder_of_nil ho
  exact ⟨o, exec_poll_of_takeOrder h ho⟩

/-! The consumer's steps inside a poll (R118, R120). -/

theorem ready_afterTurn {s : State} (h : ready s = true) : ready (afterTurn s) = true := h

theorem step_go {s : State} {ts : List Turn} (h : ready s = true) (ht : s.env.turns = .go :: ts) :
    step s = (contextStep (afterTurn s)).run := by
  obtain ⟨hu, hc, _⟩ := ready_parts h
  exact step_of_turn ht hu hc

section
variable {s : State} (hi : s.init = true)
include hi

theorem contextStep_of_drain {d : Drain} (hd : s.drain = some d) :
    contextStep s = .answer (.next (drainStep d s)) := by
  rw [contextStep, hd]
  simp only [hi, if_true]

variable (hd : s.drain = none)
include hd

theorem pollEnter_eq (src : Source) : pollEnter src s = .next (s.setDrain (some ⟨.consumer, src⟩)) := by
  rw [pollEnter, if_pos hi, drainEnter_of_none hd]

theorem contextStep_phase_zero {o : Order} (hc : s.cstate = .poll 0 o ∨ s.cstate = .get 0 o) :
    contextStep s = .answer (.next (s.setDrain (some ⟨.consumer, o.first⟩))) := by
  rcases hc with hc | hc <;> rw [contextStep, hd, hc, ← pollEnter_eq hi hd] <;> rfl

theorem contextStep_phase_one {o : Order} (hc : s.cstate = .poll 1 o ∨ s.cstate = .get 1 o) :
    contextStep s = .answer (.next (s.setDrain (some ⟨.consumer, o.second⟩))) := by
  rcases hc with hc | hc <;> rw [contextStep, hd, hc, ← pollEnter_eq hi hd] <;> rfl

theorem contextStep_poll_pop {o : Order} (hc : s.cstate = .poll 2 o) :
    contextStep s = .answer (.next (pollPop s)) := by
  rw [contextStep, hd, hc]
  exact congrArg Plan.answer (if_pos hi)

theorem contextStep_get_pop {o : Order} (hc : s.cstate = .get 2 o) : contextStep s = .answer (.next (getPop s)) := by
  rw [contextStep, hd, hc]
  exact congrArg Plan.answer (if_pos hi)

end

/-- Settles O48: the entry of the drain that the phase and the order call for. -/
theorem pollEntersBothDrains : Obligations.PollEntersBothDrains := by
  unfold Obligations.PollEntersBothDrains
  intro s o ts h hd ht
  obtain ⟨_, _, hi⟩ := ready_parts (ready_afterTurn h)
  refine ⟨fun hc => ?_, fun hc => ?_⟩
  · rw [step_go h ht, contextStep_phase_zero hi hd hc]
    cases o <;> rfl
  · rw [step_go h ht, contextStep_phase_one hi hd hc]
    cases o <;> rfl

/-- Settles O49: the last step is the pop with the consumer idle again. -/
theorem pollEndsWithOnePop : Obligations.PollEndsWithOnePop := by
  unfold Obligations.PollEndsWithOnePop
  intro s o ts h hd hc ht
  obtain ⟨_, _, hi⟩ := ready_parts (ready_afterTurn h)
  refine ⟨_, exec_rbPop_eq (ready_afterTurn h), ?_⟩
  rw [step_go h ht, contextStep_poll_pop hi hd hc]
  rfl

theorem getPop_of_char {s : State} {v : Byte} (hv : (rbPop s).1 = some v) (h0 : v ≠ 0) :
    getPop s = ((rbPop s).2.setCState .idle).setResult (some (.gotChar v)) := by
  rw [getPop, hv]
  exact if_neg h0

theorem getPop_of_none_or_zero {s : State} (hr : (rbPop s).1 = none ∨ (rbPop s).1 = some 0) :
    getPop s = getStart (rbPop s).2 := by
  rw [getPop]
  rcases hr with hr | hr <;> rw [hr]
  rfl

theorem popped_inj {r r' : Option Byte} : some (Result.popped r) = some (.popped r') ↔ r = r' := by
  rw [Option.some.injEq, Result.popped.injEq]

/-- Settles O50: GET_CHAR's pop by the byte it returns. -/
theorem getCharSkipsZeroAndEmpty : Obligations.GetCharSkipsZeroAndEmpty := by
  unfold Obligations.GetCharSkipsZeroAndEmpty
  intro s o ts h hd hc ht
  obtain ⟨_, _, hi⟩ := ready_parts (ready_afterTurn h)
  have hstep : step s = .next (getPop (afterTurn s)) := by
    rw [step_go h ht, contextStep_get_pop hi hd hc]
    rfl
  refine ⟨_, exec_rbPop_eq (ready_afterTurn h), fun v hv h0 => ?_, fun hr => ?_⟩
  · rw [State.setResult_result, popped_inj] at hv
    rw [hstep, getPop_of_char hv h0]
    rfl
  · rw [State.setResult_result, popped_inj, popped_inj] at hr
    rw [hstep, getPop_of_none_or_zero hr, rbPop_frame]
    rfl

/-! One iteration of a drain (R112, R114, R136). -/

theorem exec_sourceInstr {s : State} (h : ready s = true) (src : Source) :
    exec (sourceInstr src) s = .next (finish (querySource src s)) := by
  cases src
  · exact exec_kbdSource_eq h
  · exact exec_serialSource_eq h

theorem Decodes.result_eq {s : State} {r} (h : Decodes s r) : r.2.result = s.result := by
  rw [h.frame]

/-- A source's own state is its operation's but for the result (log 13). -/
theorem Decodes.eq_finish_with_result {s : State} {r} (h : Decodes s r) : r.2 = { finish r with result := s.result } := by
  rw [finish_frame, ← h.result_eq]

theorem finish_result_of_some {r : Option DecodeOutcome × State} {o : DecodeOutcome} (h : r.1 = some o) :
    (finish r).result = some (.outcome o) := by
  rw [finish, h]
  rfl

theorem finish_resetTaken (r : Option DecodeOutcome × State) : (finish r).resetTaken = r.2.resetTaken := by
  rw [finish_frame]

/-- There is no outcome exactly when the platform has taken the reset (R136). -/
theorem Decodes.none_iff_resetTaken {s : State} {r} (h : Decodes s r) (hn : s.resetTaken = false) :
    r.1 = none ↔ r.2.resetTaken = true := by
  refine ⟨h.ends, fun ht => ?_⟩
  rcases h.taken with hkept | ⟨_, hnone, _⟩
  · rw [hkept, hn] at ht
    cases ht
  · exact hnone

theorem CState.advance_eq (c : CState) : c.advance = match c with
    | .idle => .idle
    | .poll k o => if k = 0 then .poll 1 o else .poll 2 o
    | .get k o => if k = 0 then .get 1 o else .get 2 o := by
  cases c with
  | idle => rfl
  | poll k o => exact apply_ite (CState.poll · o) _ _ _
  | get k o => exact apply_ite (CState.get · o) _ _ _

theorem drainExit_of_irq {owner : Ctx} (h : owner ≠ .consumer) (s : State) : drainExit owner s = s.setDrain none := by
  cases owner with
  | consumer => exact absurd rfl h
  | _ => rfl

theorem step_go_drain {s : State} {d : Drain} {ts : List Turn} (h : ready s = true) (hd : s.drain = some d)
    (ht : s.env.turns = .go :: ts) : step s = .next (drainStep d (afterTurn s)) := by
  obtain ⟨_, _, hi⟩ := ready_parts (ready_afterTurn h)
  rw [step_go h ht, contextStep_of_drain (s := afterTurn s) hi hd]
  rfl

section
variable {r : Option DecodeOutcome × State} (owner : Ctx)

theorem drainTake_of_none (h : r.1 = none) : drainTake owner r = r.2 := by
  rw [drainTake, h]

theorem drainTake_of_noEvent (h : r.1 = some .noEvent) : drainTake owner r = drainExit owner r.2 := by
  rw [drainTake, h]

theorem drainTake_of_char {c : Byte} (h : r.1 = some (.char c)) : drainTake owner r = rbPush c r.2 := by
  rw [drainTake, h]

theorem drainTake_of_ignored_or_sideEffect (h : r.1 = some .ignored ∨ r.1 = some .sideEffect) :
    drainTake owner r = r.2 := by
  rw [drainTake]
  rcases h with h | h <;> rw [h]

end

/-- Settles O46: what the iteration does with each outcome of its source. -/
theorem drainIteration : Obligations.DrainIteration := by
  unfold Obligations.DrainIteration
  intro s d ts h hd ht r
  have hdec : Decodes (afterTurn s) r := decodes_querySource d.src (afterTurn s)
  have hstep : step s = .next (drainTake d.owner r) := step_go_drain h hd ht
  have hn : (afterTurn s).resetTaken = false := (marks_of_unmarked (ready_parts h).1).2.2
  have hdrain : r.2.drain = some d := by rw [hdec.frame]; exact hd
  have hcstate : r.2.cstate = s.cstate := by rw [hdec.frame]; rfl
  refine ⟨⟨finish r, ?_, hdec.eq_finish_with_result, fun o => finish_result_of_some, ?_⟩, fun c hc => ⟨?_, ?_⟩,
    fun hr => ?_, fun hr ho => ?_, fun hr ho => ?_, fun hr => ⟨?_, hdec.ends hr, hdrain⟩⟩
  · refine (congrArg (exec · (afterTurn s)) ?_).trans (exec_sourceInstr (ready_afterTurn h) d.src)
    cases d.src <;> rfl
  · rw [finish_resetTaken]
    exact hdec.none_iff_resetTaken hn
  · rintro rfl
    exact hdec.not_zero hc
  · rw [hstep, drainTake_of_char d.owner hc]
    rfl
  · rw [hstep, drainTake_of_ignored_or_sideEffect d.owner hr]
  · rw [hstep, drainTake_of_noEvent d.owner hr, drainExit_of_irq ho]
    rfl
  · rw [hstep, drainTake_of_noEvent d.owner hr, ho, drainExit, hcstate, CState.advance_eq]
    rfl
  · rw [hstep, drainTake_of_none d.owner hr]

end Sys2Proof.Machine
end

section
/-!
PROOFS. Runs of several steps (R115, R159 (a)): a poll with both devices empty, and the drain of a queue.
-/

namespace Sys2Proof.Machine

/-- `n` steps, each with a next state, lead from `s` to `t`. -/
def Steps (n : Nat) (s t : State) : Prop := Host.Core.run core n s = .next t

theorem Steps.refl (s : State) : Steps 0 s s := rfl

theorem Steps.head {n : Nat} {s u t : State} (h : step s = .next u) (hs : Steps n u t) : Steps (n + 1) s t := by
  have h' : core.step s = .next u := h
  unfold Steps
  simp only [Host.Core.run, h']
  exact hs

theorem Steps.single {s t : State} (h : step s = .next t) : Steps 1 s t := .head h (.refl t)

/-! A poll with both devices empty. -/

theorem kbdSource_of_empty {s : State} (hk : s.env.kbd = .queue []) : kbdSource s = (some .noEvent, s) :=
  kbdSource_of_no_data (readKbdStatus_of_empty hk _) BitVec.zero_and

theorem serialSource_of_empty {s : State} (hs : s.env.ser = .queue []) : serialSource s = (some .noEvent, s) := by
  cases he : s.serialExists with
  | false => exact serialSource_of_absent he
  | true => exact serialSource_of_not_ready he (readSerReady_of_empty hs) rfl

theorem querySource_of_empty {s : State} (hk : s.env.kbd = .queue []) (hs : s.env.ser = .queue []) (src : Source) :
    querySource src s = (some .noEvent, s) := by
  cases src
  · exact kbdSource_of_empty hk
  · exact serialSource_of_empty hs

/-- Inside a poll with both devices empty, the consumer at `c` and the turns `ts` to come. -/
structure EmptyPoll (s : State) (c : CState) (ts : List Turn) : Prop where
  ready : ready s = true
  drain : s.drain = none
  kbd : s.env.kbd = .queue []
  ser : s.env.ser = .queue []
  cstate : s.cstate = c
  turns : s.env.turns = ts

/-- The state after a poll's drain that found its device empty: the turns taken and the phase advanced. -/
def drained (s : State) (ts : List Turn) : State :=
  ((s.setEnv { s.env with turns := ts }).setDrain none).setCState s.cstate.advance

theorem EmptyPoll.drained {s : State} {c : CState} {ts ts' : List Turn} (h : EmptyPoll s c ts) :
    EmptyPoll (drained s ts') c.advance ts' :=
  ⟨h.ready, rfl, h.kbd, h.ser, congrArg CState.advance h.cstate, rfl⟩

theorem EmptyPoll.afterTurn {s : State} {c : CState} {u : Turn} {ts : List Turn} (h : EmptyPoll s c (u :: ts)) :
    EmptyPoll (afterTurn s) c ts :=
  ⟨h.ready, h.drain, h.kbd, h.ser, h.cstate, congrArg List.tail h.turns⟩

theorem EmptyPoll.init {s : State} {c : CState} {ts : List Turn} (h : EmptyPoll s c ts) : s.init = true :=
  (ready_parts h.ready).2.2

/-- The consumer's drain of an empty device exits at its first iteration (R114). -/
theorem step_drain_of_empty {s : State} {src : Source} {ts : List Turn} {c : CState} (h : EmptyPoll s c (.go :: ts)) :
    step (s.setDrain (some ⟨.consumer, src⟩)) = .next (Machine.drained s ts) := by
  have hempty := querySource_of_empty (s := Machine.afterTurn (s.setDrain (some ⟨.consumer, src⟩))) h.kbd h.ser src
  have hready : Machine.ready (s.setDrain (some ⟨.consumer, src⟩)) = true := h.ready
  have hturns : (s.setDrain (some ⟨.consumer, src⟩)).env.turns = .go :: ts := h.turns
  rw [step_go_drain hready rfl hturns, drainStep, hempty, drainTake_of_noEvent _ rfl, afterTurn_of_turns hturns]
  rfl

/-- A poll's drain of an empty device takes two steps, its entry and its exit (R114, R118). -/
theorem Steps.drained {s t : State} {c : CState} {src : Source} {ts : List Turn} {n : Nat}
    (h : EmptyPoll s c (.go :: .go :: ts))
    (henter : contextStep (afterTurn s) = .answer (.next ((afterTurn s).setDrain (some ⟨.consumer, src⟩))))
    (hrest : Steps n (drained s ts) t) : Steps (n + 2) s t := by
  have hentry : step s = .next ((Machine.afterTurn s).setDrain (some ⟨.consumer, src⟩)) := by
    rw [step_go h.ready h.turns, henter]
    rfl
  have hexit := step_drain_of_empty (src := src) h.afterTurn
  rw [afterTurn_of_turns h.turns] at hentry hexit
  exact .head hentry (.head hexit hrest)

/-- A poll that has started, with both devices empty: two drains of two steps each, and the pop. -/
theorem steps_emptyPoll {s : State} {o : Order} {ts : List Turn}
    (h : EmptyPoll s (.poll 0 o) (.go :: .go :: .go :: .go :: .go :: ts)) :
    Steps 5 s (pollPop (afterTurn (drained (drained s (.go :: .go :: .go :: ts)) (.go :: ts)))) := by
  have h₁ : EmptyPoll (drained s (.go :: .go :: .go :: ts)) (.poll 1 o) (.go :: .go :: .go :: ts) := h.drained
  have h₂ : EmptyPoll (drained (drained s (.go :: .go :: .go :: ts)) (.go :: ts)) (.poll 2 o) (.go :: ts) := h₁.drained
  refine .drained h (contextStep_phase_zero h.afterTurn.init h.afterTurn.drain (.inl h.afterTurn.cstate)) ?_
  refine .drained h₁ (contextStep_phase_one h₁.afterTurn.init h₁.afterTurn.drain (.inl h₁.afterTurn.cstate)) ?_
  refine .single ?_
  rw [step_go h₂.ready h₂.turns, contextStep_poll_pop h₂.afterTurn.init h₂.afterTurn.drain h₂.afterTurn.cstate]
  rfl

theorem takeOrder_frame (e : Env) :
    e.takeOrder.2 = { e with orders := e.takeOrder.2.orders, draws := e.takeOrder.2.draws } := by
  unfold Env.takeOrder
  split <;> rfl

/-- A pop looks at the ring buffer only. -/
theorem rbPop_congr {s t : State} (hb : t.buf = s.buf) (hw : t.wr = s.wr) (hr : t.rd = s.rd) :
    (rbPop t).1 = (rbPop s).1 ∧ (rbPop t).2.rd = (rbPop s).2.rd := by
  have hcur : caughtUp t = caughtUp s := by rw [caughtUp, caughtUp, pending, pending, hw, hr]
  by_cases he : s.wr = s.rd
  · have he' : t.wr = t.rd := by rw [hw, hr, he]
    rw [rbPop_of_empty he, rbPop_of_empty he']
    exact ⟨rfl, hr⟩
  · have he' : t.wr ≠ t.rd := by rwa [hw, hr]
    rw [rbPop_of_nonempty he, rbPop_of_nonempty he', hcur, memRead, memRead, hb]
    exact ⟨rfl, rfl⟩

/-- POLL_CHAR issued by the idle consumer: its start step takes the order's draw and nothing of a device (R118). -/
theorem step_pollChar_of_empty {s : State} {rest : List Encoded} {ts : List Turn} (h : ready s = true)
    (hd : s.drain = none) (hidle : s.cstate = .idle) (hk : s.env.kbd = .queue []) (hs : s.env.ser = .queue [])
    (hp : s.env.prog = .command 0x9000 :: rest) (ht : s.env.turns = .go :: ts) :
    ∃ o u, step s = .next u ∧ EmptyPoll u (.poll 0 o) ts ∧ u.env.prog = rest
      ∧ u = { s with env := u.env, cstate := u.cstate } := by
  obtain ⟨hu, hc, _⟩ := ready_parts h
  generalize hv : State.setEnv s { s.env with turns := ts, prog := rest } = v
  have hstep : step s = .next (pollStart v) := by
    rw [stepRunsDecodedOperation s _ rest ts .pollChar hu hc hd hidle ht hp rfl, ← hv]
    exact exec_pollChar_eq h
  have henv : (pollStart v).env = v.env.takeOrder.2 := rfl
  refine ⟨_, _, hstep, ⟨?_, ?_, ?_, ?_, rfl, ?_⟩, ?_, ?_⟩
  · rw [← hv]; exact h
  · rw [← hv]; exact hd
  · rw [henv, takeOrder_frame, ← hv]; exact hk
  · rw [henv, takeOrder_frame, ← hv]; exact hs
  · rw [henv, takeOrder_frame, ← hv]; rfl
  · rw [henv, takeOrder_frame, ← hv]; rfl
  · rw [← hv]; rfl

/-- Settles O51: the start, the two drains, and the pop, which finds the ring buffer as it was. -/
theorem pollCharReturnsFromEmptyDevices : Obligations.PollCharReturnsFromEmptyDevices := by
  unfold Obligations.PollCharReturnsFromEmptyDevices
  intro s rest ts h hd hidle hk hs hp ht
  obtain ⟨o, u, hstart, hpoll, hprog, hframe⟩ :=
    step_pollChar_of_empty (ts := .go :: .go :: .go :: .go :: .go :: ts) h hd hidle hk hs hp ht
  obtain ⟨hbuf, hwr, hrd, hms⟩ : u.buf = s.buf ∧ u.wr = s.wr ∧ u.rd = s.rd ∧ u.ms = s.ms := by
    rw [hframe]
    exact ⟨rfl, rfl, rfl, rfl⟩
  refine ⟨_, _, Steps.head hstart (steps_emptyPoll hpoll), exec_rbPop_eq h, ?_⟩
  generalize hv : afterTurn (drained (drained u (.go :: .go :: .go :: ts)) (.go :: ts)) = v
  have hvbuf : v.buf = s.buf := by simp [← hv, afterTurn, drained, hbuf]
  have hvwr : v.wr = s.wr := by simp [← hv, afterTurn, drained, hwr]
  have hvrd : v.rd = s.rd := by simp [← hv, afterTurn, drained, hrd]
  have hvms : v.ms = s.ms := by simp [← hv, afterTurn, drained, hms]
  have hvdrain : v.drain = none := by simp [← hv, afterTurn, drained]
  have hvprog : v.env.prog = rest := by simp [← hv, afterTurn, drained, hprog]
  obtain ⟨hpop, hpopRd⟩ := rbPop_congr hvbuf hvwr hvrd
  refine ⟨congrArg (some ∘ Result.popped) hpop, hpopRd, ?_⟩
  rw [pollPop_frame]
  exact ⟨hvwr, hvbuf, hvms, rfl, hvdrain, hvprog⟩

/-! The drain of a serial queue (R113, R114). -/

theorem serialSource_of_queue {s : State} {b : Byte} {q : List Byte} (he : s.serialExists = true)
    (hs : s.env.ser = .queue (b :: q)) :
    serialSource s = (some (outcomeOf b), s.setEnv { s.env with ser := .queue q }) := by
  rw [serialSource_of_ready he (readSerReady_of_queue hs) rfl, readSerData_of_queue hs]

theorem outcomeOf_of_ne_zero {c : Byte} (h : c ≠ 0) : outcomeOf c = .char c := if_neg h

/-- In the middle of a serial drain, with `q` in the queue and the turns `ts` to come. -/
structure SerialDraining (s : State) (owner : Ctx) (q : List Byte) (ts : List Turn) : Prop where
  ready : ready s = true
  present : s.serialExists = true
  drain : s.drain = some ⟨owner, .ser⟩
  queue : s.env.ser = .queue q
  turns : s.env.turns = ts

/-- With the queue empty the iteration is the drain's exit. -/
theorem SerialDraining.step_nil {s : State} {owner : Ctx} {ts : List Turn} (h : SerialDraining s owner [] (.go :: ts)) :
    step s = .next (drainExit owner (afterTurn s)) := by
  have hempty : querySource .ser (afterTurn s) = (some .noEvent, afterTurn s) := serialSource_of_empty h.queue
  rw [step_go_drain h.ready h.drain h.turns, drainStep, hempty, drainTake_of_noEvent _ rfl]

/-- The iteration that takes the byte at the head of the queue: a zero is dropped, another byte is pushed. -/
theorem SerialDraining.step_cons {s : State} {owner : Ctx} {b : Byte} {q : List Byte} {ts : List Turn}
    (h : SerialDraining s owner (b :: q) (.go :: ts)) :
    ∃ t, step s = .next t ∧ SerialDraining t owner q ts
      ∧ t = { s with buf := (pushAll ([b].filter (· ≠ 0)) s).buf, wr := (pushAll ([b].filter (· ≠ 0)) s).wr,
                     env := t.env } := by
  have hquery : querySource .ser (afterTurn s) = _ := serialSource_of_queue (s := afterTurn s) h.present h.queue
  rw [step_go_drain h.ready h.drain h.turns, drainStep, hquery]
  have hturns : (afterTurn s).env.turns = ts := congrArg List.tail h.turns
  obtain rfl | hb := eq_or_ne b 0
  · rw [drainTake_of_ignored_or_sideEffect owner (.inl rfl)]
    exact ⟨_, rfl, ⟨h.ready, h.present, h.drain, rfl, hturns⟩, rfl⟩
  · have hfilter : [b].filter (· ≠ 0) = [b] := List.filter_cons_of_pos (decide_eq_true hb)
    rw [outcomeOf_of_ne_zero hb, drainTake_of_char owner rfl, hfilter]
    exact ⟨_, rfl, ⟨h.ready, h.present, h.drain, rfl, hturns⟩, rfl⟩

/-- Pushes look at the storage and the write cursor only. -/
theorem pushAll_congr {s t : State} (hb : t.buf = s.buf) (hw : t.wr = s.wr) (vs : List Byte) :
    (pushAll vs t).buf = (pushAll vs s).buf ∧ (pushAll vs t).wr = (pushAll vs s).wr := by
  induction vs generalizing s t with
  | nil => exact ⟨hb, hw⟩
  | cons v vs ih =>
    refine ih (s := rbPush v s) (t := rbPush v t) ?_ ?_
    · rw [rbPush_eq, rbPush_eq, hb, hw]
    · rw [rbPush_eq, rbPush_eq, hw]

theorem pushAll_append (vs ws : List Byte) (s : State) : pushAll (vs ++ ws) s = pushAll ws (pushAll vs s) :=
  List.foldl_append

/-- A serial drain of a queue ends after its bytes, having pushed the nonzero ones in order. -/
theorem steps_serialDraining {s : State} {owner : Ctx} {q : List Byte} {ts : List Turn}
    (h : SerialDraining s owner q (List.replicate (q.length + 1) .go ++ ts)) :
    ∃ t, Steps (q.length + 1) s t ∧ t.buf = (pushAll (q.filter (· ≠ 0)) s).buf
      ∧ t.wr = (pushAll (q.filter (· ≠ 0)) s).wr ∧ t.rd = s.rd ∧ t.ms = s.ms ∧ t.hist = s.hist ∧ t.drain = none
      ∧ t.env.ser = .queue [] ∧ t.env.turns = ts := by
  induction q generalizing s with
  | nil =>
    have hturns : (afterTurn s).env.turns = ts := congrArg List.tail h.turns
    refine ⟨_, .single h.step_nil, ?_⟩
    rw [drainExit_frame]
    exact ⟨rfl, rfl, rfl, rfl, rfl, rfl, h.queue, hturns⟩
  | cons b q ih =>
    obtain ⟨u, hstep, hdraining, hframe⟩ := SerialDraining.step_cons h
    obtain ⟨t, hsteps, hbuf, hwr, hrd, hms, hhist, hrest⟩ := ih hdraining
    have hpush := pushAll_congr (s := pushAll ([b].filter (· ≠ 0)) s) (t := u) (by rw [hframe]) (by rw [hframe])
      (q.filter (· ≠ 0))
    rw [← pushAll_append, ← List.filter_append, List.singleton_append] at hpush
    refine ⟨t, .head hstep hsteps, hbuf.trans hpush.1, hwr.trans hpush.2, hrd.trans ?_, hms.trans ?_, hhist.trans ?_, hrest⟩ <;>
      rw [hframe]

/-- Settles O52: by induction on the queue, one iteration for each byte. -/
theorem serialDrainDeliversQueue : Obligations.SerialDrainDeliversQueue := by
  unfold Obligations.SerialDrainDeliversQueue
  intro s owner q ts h he hd hq ht
  obtain ⟨t, hsteps, hbuf, hwr, hrest⟩ := steps_serialDraining ⟨h, he, hd, hq, ht⟩
  have hpush := pushAll_congr (s := { s with drain := none }) (t := s) rfl rfl (q.filter (· ≠ 0))
  exact ⟨t, _, hsteps, execAll_rbPush (s := { s with drain := none }) h rfl _, hbuf.trans hpush.1, hwr.trans hpush.2,
    hrest⟩

/-! The drain of a keyboard queue (R115, R159 (a)). -/

theorem takeResponse_kbd (e : Env) : e.takeResponse.2.kbd = e.kbd := by unfold Env.takeResponse; split <;> rfl

theorem resetWrite_kbd (s : State) : (resetWrite s).2.env.kbd = s.env.kbd := by
  unfold resetWrite answerReset
  split <;> exact takeResponse_kbd _

theorem press_kbd (idx : Byte) (s : State) : (press idx s).2.env.kbd = s.env.kbd := by
  rcases press_cases idx s with h | h <;> rw [h]
  · rfl
  · exact resetWrite_kbd _

/-- Decoding a byte takes none from the keyboard (R80). -/
theorem decodeByte_kbd (b : Byte) (s : State) : (decodeByte b s).2.env.kbd = s.env.kbd := by
  rcases decodeByte_cases b s with h | h | h | h <;> rw [h]
  · rfl
  · rfl
  · exact press_kbd _ _
  · exact press_kbd _ _

/-- KBD_SOURCE of a queue finds no event, or takes the byte at its head (R90, R122). -/
theorem kbdSource_of_queue {s : State} {q : List Byte} (hk : s.env.kbd = .queue q) :
    (kbdSource s).1 = some .noEvent ∨ ∃ b q', q = b :: q' ∧ (kbdSource s).2.env.kbd = .queue q' := by
  cases q with
  | nil => rw [kbdSource_of_empty hk]; exact .inl rfl
  | cons b q =>
    have hst := readKbdStatus_of_queue hk s.cfg.kbdDibMask
    by_cases hmask : s.cfg.kbdDibMask &&& s.cfg.kbdDibMask = 0
    · rw [kbdSource_of_no_data hst hmask]
      exact .inl rfl
    · rw [kbdSource_of_data hst hmask, decodeByte_kbd, readKbdData_of_queue hk]
      exact .inr ⟨b, q, rfl, rfl⟩

/-- In the middle of a keyboard drain, with `q` in the queue and the turns `ts` to come. -/
structure KeyboardDraining (s : State) (owner : Ctx) (q : List Byte) (ts : List Turn) : Prop where
  ready : ready s = true
  drain : s.drain = some ⟨owner, .kbd⟩
  queue : s.env.kbd = .queue q
  turns : s.env.turns = ts

/-- What an iteration leaves when its source did not end the drain: the source's state, but for a push. -/
theorem drainTake_of_event {owner : Ctx} {r : Option DecodeOutcome × State} (h : r.1 ≠ some .noEvent) :
    drainTake owner r = { r.2 with buf := (drainTake owner r).buf, wr := (drainTake owner r).wr } := by
  rcases drainTake_cases owner r with ⟨h', _⟩ | ⟨c, _, h'⟩ | ⟨_, h'⟩
  · exact absurd h' h
  · rw [h']; rfl
  · rw [h']

theorem ready_of_frame {s t : State} (h : ready s = true) (hn : t.resetTaken = false)
    (hframe : t = { s with ms := t.ms, buf := t.buf, wr := t.wr, hist := t.hist, env := t.env, resetTaken := t.resetTaken }) :
    ready t = true := by
  obtain ⟨hu, hc, hi⟩ := ready_parts h
  obtain ⟨hf, hr, _⟩ := marks_of_unmarked hu
  rw [hn] at hframe
  rw [hframe]
  simp [ready, unmarked, hf, hr, hc, hi]

/-- An iteration ends the drain, or the platform takes the reset, or one byte of the queue is gone. -/
theorem KeyboardDraining.step {s : State} {owner : Ctx} {q : List Byte} {ts : List Turn}
    (h : KeyboardDraining s owner q (.go :: ts)) :
    ∃ t, Machine.step s = .next t ∧ (t.drain = none ∨ t.resetTaken = true
      ∨ ∃ b q', q = b :: q' ∧ KeyboardDraining t owner q' ts) := by
  have hdec := decodes_kbdSource (afterTurn s)
  have hturns : (afterTurn s).env.turns = ts := congrArg List.tail h.turns
  refine ⟨_, step_go_drain h.ready h.drain h.turns, ?_⟩
  generalize ht : drainStep ⟨owner, .kbd⟩ (afterTurn s) = t
  have htake : t = drainTake owner (kbdSource (afterTurn s)) := ht.symm
  rcases kbdSource_of_queue (s := afterTurn s) h.queue with hno | ⟨b, q', hq, hk⟩
  · rw [htake, drainTake_of_noEvent owner hno, drainExit_frame]
    exact .inl rfl
  · by_cases hno : (kbdSource (afterTurn s)).1 = some .noEvent
    · rw [htake, drainTake_of_noEvent owner hno, drainExit_frame]
      exact .inl rfl
    · have hframe := drainTake_of_event (owner := owner) hno
      rw [← htake] at hframe
      cases hn : t.resetTaken with
      | true => exact .inr (.inl rfl)
      | false =>
        refine .inr (.inr ⟨b, q', hq, ready_of_frame (ready_afterTurn h.ready) hn ?_, ?_, ?_, ?_⟩)
        · rw [hframe, hdec.frame]
        · rw [hframe, hdec.frame]; exact h.drain
        · rw [hframe]; exact hk
        · rw [hframe]; exact hdec.turns.trans hturns

theorem steps_keyboardDraining {s : State} {owner : Ctx} {q : List Byte} {ts : List Turn}
    (h : KeyboardDraining s owner q (List.replicate (q.length + 1) .go ++ ts)) :
    ∃ n t, n ≤ q.length + 1 ∧ Steps n s t ∧ (t.drain = none ∨ t.resetTaken = true) := by
  induction q generalizing s with
  | nil =>
    obtain ⟨t, hstep, hd | hr | ⟨b, q', hq, _⟩⟩ := KeyboardDraining.step h
    · exact ⟨1, t, le_rfl, .single hstep, .inl hd⟩
    · exact ⟨1, t, le_rfl, .single hstep, .inr hr⟩
    · cases hq
  | cons b q ih =>
    obtain ⟨t, hstep, hd | hr | ⟨b', q', hq, ht⟩⟩ := KeyboardDraining.step h
    · exact ⟨1, t, by omega, .single hstep, .inl hd⟩
    · exact ⟨1, t, by omega, .single hstep, .inr hr⟩
    · obtain ⟨-, rfl⟩ := List.cons.inj hq
      obtain ⟨n, u, hn, hsteps, hu⟩ := ih ht
      exact ⟨n + 1, u, Nat.succ_le_succ hn, .head hstep hsteps, hu⟩

/-- Settles O53: by induction on the queue, each iteration ending the drain or taking one byte. -/
theorem keyboardDrainTerminates : Obligations.KeyboardDrainTerminates := by
  unfold Obligations.KeyboardDrainTerminates
  intro s owner q ts h hd hq ht
  exact steps_keyboardDraining ⟨h, hd, hq, ht⟩

end Sys2Proof.Machine
end
